-- ==== Sys2Proof/Word.lean ====
section
/-!
DEFINITION. The two word types of the FE10 codec core: the byte of the IN and OUT windows and of the stream
(20_memory.md R50), and the 32-bit word of the register file (10_state.md R20).
-/

namespace Sys2Proof

/-- One byte of a window or of the stream (R50, R70). -/
abbrev Byte := BitVec 8

/-- One 32-bit word of the register file (R20), and the header word (R71). -/
abbrev Word := BitVec 32

end Sys2Proof
end

