-- ==== Sys2Proof/Syntax.lean ====
section
/-!
DEFINITION. The instructions of the opcode map (30_encoding.md R81): the four host commands and the four stream
elements, one constructor per row of the opcode table, and the two things that select how bits are read: the OP
field of a command and the kind of stream element expected at the input pointer.
-/

namespace Sys2Proof

/-- CTRL.OP, bits 2:1 of CTRL (10_state.md R21). All four values are defined. -/
inductive Op
  | decode
  | encode
  | hdrParse
  | hdrSerialize
  deriving DecidableEq, Repr

/-- What selects the reading of stream bytes (R81): the position in the stream for HEADER and FLAG, the current flag
bit for LIT and BREF. The bytes alone do not say which element they are (R77). -/
inductive Element
  | header
  | flag
  | lit
  | bref
  deriving DecidableEq, Repr

/-- One constructor per row of the opcode table. Commands carry no operand, since CTRL bits 31:3 are ignored (R80, R84).
Stream elements carry their assembled operands (R72, R73, R74, R76). -/
inductive Instr
  /-- Command DECODE, CTRL word 0b001 (R100). -/
  | decode
  /-- Command ENCODE, CTRL word 0b011 (R130). -/
  | encode
  /-- Command HDR_PARSE, CTRL word 0b101 (R92). -/
  | hdrParse
  /-- Command HDR_SERIALIZE, CTRL word 0b111 (R93). -/
  | hdrSerialize
  /-- Stream element HEADER (R102): LEN is word bits 31:8, TAG is word bits 7:0 (R71). -/
  | header (len : BitVec 24) (tag : Byte)
  /-- Stream element FLAG (R104): bit 7 governs the first token of the group (R73). -/
  | flag (f : Byte)
  /-- Stream element LIT (R106): one raw byte (R74). -/
  | lit (v : Byte)
  /-- Stream element BREF (R107): TLEN = LM3 + 3 and DISP (R75, R76). -/
  | bref (tlen : BitVec 5) (disp : BitVec 12)
  deriving DecidableEq, Repr

/-- The two things the core decodes (30_encoding.md, opening): a word written to CTRL, or bytes of the IN window read
as the element their position or flag bit selects. -/
inductive Code
  | ctrl (w : Word)
  | stream (e : Element) (bytes : List Byte)
  deriving DecidableEq, Repr

/-- Why bits are no instruction. -/
inductive DecodeError
  /-- Fewer bytes are left than the selected element has: the engine then raises TruncatedInput (R117). -/
  | truncated
  /-- START (bit 0) is 0: the CTRL write is no command and only updates OP (R22). -/
  | startClear
  deriving DecidableEq, Repr

end Sys2Proof
end

