-- ==== Sys2Proof/Machine/Operands.lean ====
section
/-!
DEFINITION. Byte orders, field layouts and operand assembly (00_scope.md R12, 20_memory.md R56, 30_encoding.md R71 to
R76, R80), and the exact-integer operand arithmetic of a back-reference (41_decode.md R108 to R110, R123).
-/

namespace Sys2Proof

/-- `LE32(w)` of R12: the four bytes of w, least significant first. -/
def le32 (w : Word) : List Byte :=
  [w.extractLsb' 0 8, w.extractLsb' 8 8, w.extractLsb' 16 8, w.extractLsb' 24 8]

/-- `fromLE32(b0, b1, b2, b3)` of R12. -/
def fromLE32 (b0 b1 b2 b3 : Byte) : Word := b3 ++ b2 ++ b1 ++ b0

/-- `fromBE16(b0, b1)` of R12: the first byte is the more significant. -/
def fromBE16 (b0 b1 : Byte) : BitVec 16 := b0 ++ b1

/-- The two bytes of a BREF's info in stream order, high byte first (R56, R86). -/
def be16 (info : BitVec 16) : List Byte := [info.extractLsb' 8 8, info.extractLsb' 0 8]

/-- LEN of a header word, `word >> 8`, bits 31:8 (R71, R72). -/
def headerLen (w : Word) : BitVec 24 := w.extractLsb' 8 24

/-- TAG of a header word, `word & 0xFF`, bits 7:0 (R71, R72). -/
def headerTag (w : Word) : Byte := w.extractLsb' 0 8

/-- The header word of LEN and TAG, `len << 8 | tag` (R71). -/
def headerWord (len : BitVec 24) (tag : Byte) : Word := len ++ tag

/-- TLEN of a BREF's info: 3 + info[15:12] (R76). -/
def brefTlen (info : BitVec 16) : BitVec 5 := 3#5 + (info.extractLsb' 12 4).setWidth 5

/-- DISP of a BREF's info: info[11:0] (R76). -/
def brefDisp (info : BitVec 16) : BitVec 12 := info.extractLsb' 0 12

/-- The info word of a BREF: `((tlen − 3) << 12) | disp` (R86). -/
def brefInfo (tlen : BitVec 5) (disp : BitVec 12) : BitVec 16 := (tlen - 3#5).setWidth 4 ++ disp

/-- START, bit 0 of a word written to CTRL (R21, R80). -/
def commandStart (w : Word) : Bool := w.getLsbD 0

/-- The two bits of CTRL.OP (R21). -/
def opBits : Op → BitVec 2
  | .decode => 0#2
  | .encode => 1#2
  | .hdrParse => 2#2
  | .hdrSerialize => 3#2

/-- OP, bits 2:1 of a word written to CTRL (R21, R80). -/
def commandOp (w : Word) : Op :=
  match w.getLsbD 2, w.getLsbD 1 with
  | false, false => .decode
  | false, true => .encode
  | true, false => .hdrParse
  | true, true => .hdrSerialize

/-- The command word of an operation with zero reserved bits, `(OP << 1) | 1` (R80, R174). -/
def commandWord (op : Op) : Word := ((opBits op).setWidth 32 <<< 1) ||| 1#32

/-- What a host read of CTRL returns, `zext_32(OP << 1)`: START reads 0 (R23). -/
def ctrlWord (op : Op) : Word := (opBits op).setWidth 32 <<< 1

/-- `ptr <- OLEN − disp − 1`, an exact signed integer (R108). -/
def copySource (olen : Word) (disp : BitVec 12) : Int := (olen.toNat : Int) - disp.toNat - 1

/-- `cnt <- min(tlen, L − OLEN)` (R109). A token starts only while OLEN < L, so the difference is positive
there. DEDUCED, assumption 20. -/
def copyCount (tlen : BitVec 5) (l : BitVec 24) (olen : Word) : Nat := min tlen.toNat (l.toNat - olen.toNat)

/-- The path test of R110, `ptr + cnt < OLEN` with strict `<` (90 C6). -/
def copyIsBulk (ptr : Int) (cnt : Nat) (olen : Word) : Bool := decide (ptr + cnt < olen.toNat)

/-- `ceil_div(a, b)` of R11. -/
def ceilDiv (a b : Nat) : Nat := (a + b - 1) / b

end Sys2Proof
end

