-- ==== Sys2Proof/WellFormed.lean ====
section
/-!
DEFINITION. Which instructions are legal spellings of the format: the operand ranges of 30_encoding.md R71, R76 and R89
that the operand types do not already enforce.
-/

namespace Sys2Proof

/-- A well-formed instruction. A HEADER's only legal TAG is 0x10 (R71, R82); a BREF's length is 3..18 (R76, R89). Every
FLAG and LIT byte and every command is legal (R85). An ill-formed HEADER still has a meaning, an error (R82). -/
def Instr.wellFormed : Instr → Bool
  | .decode => true
  | .encode => true
  | .hdrParse => true
  | .hdrSerialize => true
  | .header _ tag => tag == 0x10#8
  | .flag _ => true
  | .lit _ => true
  | .bref tlen _ => decide (3 ≤ tlen.toNat ∧ tlen.toNat ≤ 18)

end Sys2Proof
end

