-- ==== Sys2Proof/Decode.lean ====
section
/-!
DEFINITION. The decoder of 30_encoding.md: CTRL words (R80) and stream elements (R71, R73, R74, R75), total on any bits
and rejecting by name; then the encoder, written from the same formats; then the host's numbering of the opcode table.
-/

namespace Sys2Proof

/-- The instruction a command stands for. -/
def commandInstr : Op → Instr
  | .decode => .decode
  | .encode => .encode
  | .hdrParse => .hdrParse
  | .hdrSerialize => .hdrSerialize

/-- Decode a word written to CTRL (CTRL32, R80): START must be 1, OP selects, bits 31:3 are ignored. -/
def decodeCommand (w : Word) : Except DecodeError Instr :=
  if commandStart w then .ok (commandInstr (commandOp w)) else .error .startClear

/-- Decode one stream element from the bytes at the input pointer (HDR32, FLAG8, LIT8, BREF16), with the bytes after it.
Only a lack of bytes is refused: every value is a legal encoding (R85) and a bad TAG or displacement is for the meaning
to report (R82, R83). -/
def decodeElement : Element → List Byte → Except DecodeError (Instr × List Byte)
  | .header, b0 :: b1 :: b2 :: b3 :: rest =>
    .ok (.header (headerLen (fromLE32 b0 b1 b2 b3)) (headerTag (fromLE32 b0 b1 b2 b3)), rest)
  | .header, _ => .error .truncated
  | .flag, f :: rest => .ok (.flag f, rest)
  | .flag, [] => .error .truncated
  | .lit, v :: rest => .ok (.lit v, rest)
  | .lit, [] => .error .truncated
  | .bref, c0 :: c1 :: rest => .ok (.bref (brefTlen (fromBE16 c0 c1)) (brefDisp (fromBE16 c0 c1)), rest)
  | .bref, _ => .error .truncated

/-- How many stream bytes an element has: HDR_BYTES, 1, LIT_BYTES, BREF_BYTES (R8, R81). -/
def elementBytes : Element → Nat
  | .header => 4
  | .flag => 1
  | .lit => 1
  | .bref => 2

/-- The decoder, on either kind of code (R81). -/
def decodeInstr : Code → Except DecodeError (Instr × List Byte)
  | .ctrl w => (decodeCommand w).map (fun i => (i, []))
  | .stream e bytes => decodeElement e bytes

/-- The encoder: the word or bytes of an instruction, reserved bits zero (R71, R73, R74, R75, R80, R86). -/
def encodeInstr : Instr → Code
  | .decode => .ctrl (commandWord .decode)
  | .encode => .ctrl (commandWord .encode)
  | .hdrParse => .ctrl (commandWord .hdrParse)
  | .hdrSerialize => .ctrl (commandWord .hdrSerialize)
  | .header len tag => .stream .header (le32 (headerWord len tag))
  | .flag f => .stream .flag [f]
  | .lit v => .stream .lit [v]
  | .bref tlen disp => .stream .bref (be16 (brefInfo tlen disp))

/-- The code of an element with more bytes after it, as it stands in a stream (R70). -/
def Code.withTrailing : Code → List Byte → Code
  | .ctrl w, _ => .ctrl w
  | .stream e bytes, more => .stream e (bytes ++ more)

/-- The code that a word of the opcode table stands for, numbered as the table numbers it. The table's rows overlap,
because FLAG, LIT and BREF are selected by position or flag bit and fix no bit at all (R81), so a word alone does not name
its row. The rule taken, DESIGN CHOICE, assumption 9: 16 bits are BREF16, high byte first (R56); 32 bits are CTRL32 if START is set, else
HDR32, low byte first (R56); up to 8 bits are the row with the most fixed bits that match, HEADER (TAG 0x10), then a
command (START set), then LIT; no bits at all are FLAG. -/
def tableCode (nbits w : Nat) : Option Code :=
  if nbits = 0 then some (.stream .flag [0#8])
  else if nbits ≤ 8 then
    if w % 256 = 0x10 then some (.stream .header (le32 (BitVec.ofNat 32 (w % 256))))
    else if w % 2 = 1 then some (.ctrl (BitVec.ofNat 32 (w % 256)))
    else some (.stream .lit [BitVec.ofNat 8 w])
  else if nbits ≤ 16 then some (.stream .bref (be16 (BitVec.ofNat 16 w)))
  else if nbits ≤ 32 then
    if w % 2 = 1 then some (.ctrl (BitVec.ofNat 32 w))
    else if w % 256 = 0x10 then some (.stream .header (le32 (BitVec.ofNat 32 w)))
    else none
  else none

/-- The host's question about the opcode table: the instruction the decoder reads from the table's word w. -/
def decodeTableWord (nbits w : Nat) : Option Instr :=
  match tableCode nbits w with
  | none => none
  | some c =>
    match decodeInstr c with
    | .ok (i, _) => some i
    | .error _ => none

end Sys2Proof
end

