-- ==== Sys2Proof/Config.lean ====
section
/-!
DEFINITION. The implementation parameters of 00_scope.md R9, as plain data an instance is built with, and the free
values: the contents and readings the spec leaves unspecified and tells a model to treat as any value.
-/

namespace Sys2Proof

/-- P_LEN_OVERFLOW_MODE (R9, 92 D5): what ENCODE and HDR_SERIALIZE do with a length of 2^24 or more. -/
inductive LenOverflowMode
  | reject
  | truncate
  deriving DecidableEq, Repr

/-- The three address spaces of the core (20_memory.md R50). -/
inductive Space
  | registers
  | inWindow
  | outWindow
  deriving DecidableEq, Repr

/-- The parameters of one instance (R9). They are fixed when the instance is built: no step changes them. -/
structure Config where
  /-- P_LEN_OVERFLOW_MODE. -/
  lenOverflow : LenOverflowMode
  /-- P_IN_CAP, capacity of the IN window in bytes. -/
  inCap : Nat
  /-- P_OUT_CAP, capacity of the OUT window in bytes. -/
  outCap : Nat
  /-- P_REG_BASE, platform bus address of the register file. -/
  regBase : Nat
  /-- P_IN_BASE, platform bus address of the IN window. -/
  inBase : Nat
  /-- P_OUT_BASE, platform bus address of the OUT window. -/
  outBase : Nat
  deriving DecidableEq, Repr

/-- A word the spec lets be any value, a fresh one per draw: what a read of OUT_LEN, IN_POS or HDR returns while BUSY
(10_state.md R41, 93 U6). Free value: no body, see assumption 3. -/
opaque Config.freeWord : Nat → Word

/-- A byte the spec lets be any value, a fresh one per draw: what a read of a window returns while BUSY (20_memory.md
R68, 93 U5). Free value: no body, see assumption 3. -/
opaque Config.freeByte : Nat → Byte

/-- The unspecified contents of the IN window (93 U7): the byte at an offset nothing has written since reset number
`epoch`. Free value: no body, see assumption 4. -/
opaque Config.freeInByte : (epoch : Nat) → (offset : Nat) → Byte

/-- The unspecified contents of the OUT window (93 U5): the byte at an offset whose contents the spec has left open since
event number `epoch` (a reset or the end of an operation). Free value: no body, see assumption 4. -/
opaque Config.freeOutByte : (epoch : Nat) → (offset : Nat) → Byte

end Sys2Proof
end

