-- ==== Sys2Proof/Machine/State.lean ====
section
/-!
DEFINITION. The state of one instance as plain data: the host-visible register file (10_state.md section 1), the engine's
internal datapath state (section 2), the two byte windows (20_memory.md R50), the instance's parameters (00_scope.md R9),
and the model's own fields; the reasons a step can stop; and the state right after reset (R44).
-/

namespace Sys2Proof.Machine

/-- Why the machine faults: an access to an offset the spec says does not exist. -/
inductive Fault
  /-- Raised by a host window access at an offset at or beyond the window's capacity (R50). Safe: the model stops where the
  spec gives no byte. DESIGN CHOICE, assumption 13. -/
  | hostWindowOffset (space : Space)
  /-- Raised by an engine write OUT[OLEN] with OLEN at or beyond P_OUT_CAP. R54 makes this impossible in every state a
  command can reach; it is here so that memory never holds a byte that does not exist. Safe. -/
  | outWindowOverrun
  deriving DecidableEq, Repr

/-- Why the model gives no step: broken host duties, which the spec itself refuses (R55, R59, R66, R164). -/
inductive Refusal
  /-- An instruction with no meaning yet. Safe. No arm of exec answers with it. -/
  | notModelled (mnemonic : String)
  /-- Raised by a register access that is not an aligned 32-bit access within 0x00 to 0x1F (R59). Safe: the spec gives it no
  model step. -/
  | badRegisterAccess
  /-- Raised by DECODE, ENCODE and HDR_PARSE with IN_LEN > P_IN_CAP (R55), and by a running engine in such a launch. Safe. -/
  | inLenOverCapacity
  /-- Raised by a command on an instance whose parameters break R54 (R55), and by a running engine of one. Safe. -/
  | parametersOutOfScope
  /-- Raised by a host write to the IN or OUT window while BUSY, for which the spec gives the host no move (R66, R178).
  Unsafe in the spec's own sense (93 A1): a real device would go on with mixed contents. DEDUCED, assumption 15. -/
  | windowWriteWhileBusy
  deriving DecidableEq, Repr

/-- The error causes of 60_exceptions.md R141. -/
inductive ErrorCode
  | unsupportedFormat
  | truncatedInput
  | invalidBackReference
  | lengthOverflow
  deriving DecidableEq, Repr

/-- STATUS as the four-valued type of 10_state.md R25, with the error code of a FAILED operation. -/
inductive Status
  | idle
  | running
  | succeeded
  | failed (e : ErrorCode)
  deriving DecidableEq, Repr

/-- PHASE, the micro-step state (10_state.md R40). -/
inductive Phase
  | idle
  | hParse
  | hSer
  | dHeader
  | dReadFlag
  | dToken
  | dCopy
  | eHeader
  | eFlag
  | eLit
  deriving DecidableEq, Repr

/-- The width of a host register access (20_memory.md R59). -/
inductive AccessWidth
  | bits8
  | bits16
  | bits32
  deriving DecidableEq, Repr

/-- One move of the agents other than the engine's own running on: a host access (R59, R60), the platform's reset event
(R170), or leave for the engine to take one step before the next host move. DESIGN CHOICE, assumption 8. -/
inductive Move
  | engine
  | reset
  | regRead (width : AccessWidth) (off : Nat)
  | regWrite (width : AccessWidth) (off : Nat) (v : Word)
  | inRead (off : Nat)
  | inWrite (off : Nat) (v : Byte)
  | outRead (off : Nat)
  | outWrite (off : Nat) (v : Byte)
  deriving DecidableEq, Repr

/-- A window's contents: the bytes that have a known value, by rising offset. An unlisted offset holds no known
value. DESIGN CHOICE, assumption 2. -/
abbrev Memory := List Host.Cell

/-- The state of one instance. -/
structure State where
  /-- The instance's parameters (R9). DESIGN CHOICE, assumption 10. -/
  cfg : Config
  /-- CTRL.OP (R21). START has no storage: it always reads 0. -/
  op : Op
  /-- STATUS (R24, R25). -/
  status : Status
  /-- IN_LEN (R27). -/
  inLen : Word
  /-- OUT_LEN (R28). -/
  outLen : Word
  /-- IN_POS (R29). -/
  inPos : Word
  /-- HDR (R30). -/
  hdr : Word
  /-- PHASE (R40). -/
  phase : Phase
  /-- CUR_OP, the running operation's OP (R31). -/
  curOp : Op
  /-- L, the declared output length (R37). -/
  l : BitVec 24
  /-- N, IN_LEN latched at START (R31, R43). -/
  n : Word
  /-- IPOS, the input offset of the next byte to read (R34). -/
  ipos : Word
  /-- ESTART, the element start of the current element (R31). -/
  estart : Word
  /-- OLEN, bytes written to OUT so far (R38). -/
  olen : Word
  /-- FLAGS, the flag shift register (R35). -/
  flags : Byte
  /-- BIT, tokens consumed in the current group, 0..8 (R36). -/
  bit : BitVec 4
  /-- CPTR, copy source offset (R39). -/
  cptr : BitVec 24
  /-- CREM, bytes still to copy, 0..18 (R39). -/
  crem : BitVec 5
  /-- CBULK, the copy path chosen (R39, R110). -/
  cbulk : Bool
  /-- GCNT, literals still to emit in the encoder's group, 0..8 (R31, R136). -/
  gcnt : BitVec 4
  /-- IN window (R50). -/
  inMem : Memory
  /-- OUT window (R50, R52). -/
  outMem : Memory
  /-- Model's own: which unspecified contents the IN window holds; a reset event makes new ones (R172).
  Assumptions 4 and 7. -/
  inEpoch : Nat
  /-- Model's own: which unspecified contents the OUT window holds; a reset event or the end of an operation makes new
  ones (R68). Assumptions 4 and 7. -/
  outEpoch : Nat
  /-- Model's own: how many fresh values have been drawn (R41). Assumptions 3 and 7. -/
  draws : Nat
  /-- Model's own: what the host's last read returned, zero-extended. Assumption 7. -/
  rdata : Word
  /-- Model's own: the moves still to come from outside the engine, first one next. When it is empty the engine runs on.
  Assumptions 7 and 8. -/
  agenda : List Move
  deriving DecidableEq, Repr

/-- The parameters of the instance that State.reset is: the default overflow mode (R9) and capacities that meet R54 in both
modes. The capacities and bases are open parameters, see assumption 5 (DESIGN CHOICE); no statement rests on
them. -/
def standardConfig : Config where
  lenOverflow := .reject
  inCap := 0x2000000
  outCap := 0x4000000
  regBase := 0
  inBase := 0x10000000
  outBase := 0x20000000

/-- The state right after reset (R44): IDLE, every register 0, OP = DECODE, both windows unspecified. L, FLAGS, BIT, CPTR,
CREM, CBULK and GCNT have no reset value in the spec and hold 0 here, see assumption 1 (DESIGN CHOICE, unsafe). -/
def State.reset : State where
  cfg := standardConfig
  op := .decode
  status := .idle
  inLen := 0#32
  outLen := 0#32
  inPos := 0#32
  hdr := 0#32
  phase := .idle
  curOp := .decode
  l := 0#24
  n := 0#32
  ipos := 0#32
  estart := 0#32
  olen := 0#32
  flags := 0#8
  bit := 0#4
  cptr := 0#24
  crem := 0#5
  cbulk := false
  gcnt := 0#4
  inMem := []
  outMem := []
  inEpoch := 0
  outEpoch := 0
  draws := 0
  rdata := 0#32
  agenda := []

end Sys2Proof.Machine
end

