-- ==== Sys2Proof/Machine/Flags.lean ====
section
/-!
DEFINITION. The status word of the register file (10_state.md R24, R25, 60_exceptions.md R141), which is all the core has
for condition codes, and the flag shift register of the decoder (10_state.md R35, 41_decode.md R105, R114).
-/

namespace Sys2Proof.Machine

/-- The error code numbers of R141. Codes 0 and 5 to 15 are never produced by an error. -/
def ErrorCode.number : ErrorCode → BitVec 4
  | .unsupportedFormat => 1#4
  | .truncatedInput => 2#4
  | .invalidBackReference => 3#4
  | .lengthOverflow => 4#4

/-- STATUS.BUSY (R24). -/
def Status.busy : Status → Bool
  | .running => true
  | _ => false

/-- STATUS.DONE (R24). -/
def Status.done : Status → Bool
  | .succeeded => true
  | _ => false

/-- STATUS.ERR (R24). -/
def Status.err : Status → Bool
  | .failed _ => true
  | _ => false

/-- STATUS.ERRCODE: 0 unless ERR = 1 (R24). -/
def Status.errcode : Status → BitVec 4
  | .failed e => e.number
  | _ => 0#4

/-- The word a host read of STATUS returns: ERRCODE in bits 7:4, bit 3 zero, ERR, DONE, BUSY in bits 2, 1, 0, bits 31:8
zero (R24). -/
def Status.word (st : Status) : Word :=
  (st.errcode ++ (0#1 ++ (BitVec.ofBool st.err ++ (BitVec.ofBool st.done ++ BitVec.ofBool st.busy)))).setWidth 32

/-- BUSY of the machine. While it is set, register writes are ignored and results are not defined (R22, R41). -/
def State.busy (s : State) : Bool := s.status.busy

/-- ConsumeBit's test: bit 7 of FLAGS selects a back-reference (R105). -/
def flagSelectsBref (flags : Byte) : Bool := flags.getLsbD 7

/-- The element the current flag bit selects (R77, R105). -/
def tokenElement (flags : Byte) : Element := if flagSelectsBref flags then .bref else .lit

/-- `FLAGS <- (FLAGS << 1) & 0xFF` (R35, R114). -/
def flagShift (flags : Byte) : Byte := flags <<< 1

end Sys2Proof.Machine
end

