-- ==== Sys2Proof/Machine/Ops.lean ====
section
/-!
DEFINITION. The named operations over windows and registers that the meanings share: window reads and writes
(00_scope.md R13), the launch duty (20_memory.md R54, R55), starting an operation (10_state.md R43), ending one with
success (R45) or with an error (60_exceptions.md R146), the reset event (70_reset_and_hazards.md R171), fresh values
(10_state.md R41), and the result of an operation (00_scope.md R14).
-/

namespace Sys2Proof.Machine

/-- The canonical form of a window's contents: offsets strictly rising, so that equal contents are equal lists. An unlisted
offset has no known value, so no entry can restate it. -/
abbrev Memory.wf (m : Memory) : Prop := m.Pairwise (fun a b => a.1 < b.1)

/-- The known value at an offset, if it has one. -/
def Memory.get? (m : Memory) (a : Nat) : Option Byte :=
  match m with
  | [] => none
  | (b, v) :: rest => if b = a then some v else Memory.get? rest a

/-- Write one byte, keeping offsets strictly rising. -/
def Memory.set (m : Memory) (a : Nat) (v : Byte) : Memory :=
  match m with
  | [] => [(a, v)]
  | (b, w) :: rest =>
    if a < b then (a, v) :: (b, w) :: rest
    else if a = b then (a, v) :: rest
    else (b, w) :: Memory.set rest a v

/-- Write consecutive bytes from an offset on. -/
def Memory.setAll (m : Memory) (a : Nat) : List Byte → Memory
  | [] => m
  | v :: vs => Memory.setAll (m.set a v) (a + 1) vs

/-- Keep only the bytes at offsets below a bound; the others no longer have a known value (R68). -/
def Memory.below (m : Memory) (bound : Nat) : Memory := m.filter (fun c => decide (c.1 < bound))

/-- `IN[i]` (R13): the byte the IN window holds. Where nothing has written, it is any value (R44, R172). -/
def State.inByte (s : State) (i : Nat) : Byte :=
  match s.inMem.get? i with
  | some v => v
  | none => Config.freeInByte s.inEpoch i

/-- `OUT[k]` (R13): the byte the OUT window holds. Where its contents are left open, it is any value (R68). -/
def State.outByte (s : State) (k : Nat) : Byte :=
  match s.outMem.get? k with
  | some v => v
  | none => Config.freeOutByte s.outEpoch k

/-- `OUT[OLEN] <- v; OLEN <- OLEN + 1`, the only way the engine appends to its output (R52). -/
def State.emit (v : Byte) (s : State) : State :=
  { s with outMem := s.outMem.set s.olen.toNat v, olen := s.olen + 1 }

/-- Append a byte and go on, where OUT has a byte at OLEN. Under R54 it always has (R54's last
sentence). DEDUCED, assumption 23. -/
def State.emitThen (v : Byte) (k : State → State) (s : State) : Host.Outcome State Fault Refusal :=
  if s.olen.toNat < s.cfg.outCap then .next (k (s.emit v)) else .fault .outWindowOverrun

/-- E_MAX, the largest IN_LEN ENCODE accepts (R54). -/
def eMax (c : Config) : Nat :=
  match c.lenOverflow with
  | .reject => min c.inCap (2 ^ 24 - 1)
  | .truncate => c.inCap

/-- The capacity constraint of R54: whether the instance is in scope. -/
def inScope (c : Config) : Bool :=
  decide (4 ≤ c.inCap) && decide (2 ^ 24 - 1 ≤ c.outCap) &&
    decide (eMax c + ceilDiv (eMax c) 8 + 4 ≤ c.outCap) && decide (c.outCap ≤ 2 ^ 32 - 1)

/-- The size of an address space in bytes (R50). -/
def spaceSize (c : Config) : Space → Nat
  | .registers => 0x20
  | .inWindow => c.inCap
  | .outWindow => c.outCap

/-- The platform bus address of an offset of a space (R20, R50, R69). -/
def busAddress (c : Config) (sp : Space) (off : Nat) : Nat :=
  match sp with
  | .registers => c.regBase + off
  | .inWindow => c.inBase + off
  | .outWindow => c.outBase + off

/-- Whether a launch of `op` on `len` keeps the host's duty, and if not, which refusal it carries (R55): the instance must be
in scope, and all commands but HDR_SERIALIZE need IN_LEN ≤ P_IN_CAP. DESIGN CHOICE, assumption 11: which is named
first. -/
def launchRefusal (c : Config) (op : Op) (len : Word) : Option Refusal :=
  if inScope c = false then some .parametersOutOfScope
  else if op ≠ .hdrSerialize ∧ c.inCap < len.toNat then some .inLenOverCapacity
  else none

/-- The phase an operation starts in (R43). -/
def startPhase : Op → Phase
  | .decode => .dHeader
  | .encode => .eHeader
  | .hdrParse => .hParse
  | .hdrSerialize => .hSer

/-- `start_operation(op)` (R43): latch, clear and enter the first phase, in one indivisible step. L, FLAGS, BIT, CPTR, CREM,
CBULK and GCNT keep what they held. -/
def State.startOperation (op : Op) (s : State) : State :=
  { s with
    curOp := op, n := s.inLen, status := .running,
    outLen := 0#32, inPos := 0#32, hdr := 0#32,
    olen := 0#32, ipos := 0#32, estart := 0#32,
    phase := startPhase op }

/-- A command (R22): ignored while BUSY; otherwise OP is written and the operation starts, unless the launch is refused
(R55). DESIGN CHOICE, assumption 18: the micro-steps carry it out. -/
def State.command (op : Op) (s : State) : Host.Outcome State Fault Refusal :=
  if s.busy then .next s
  else
    match launchRefusal s.cfg op s.inLen with
    | some r => .refused r
    | none => .next (State.startOperation op { s with op := op })

/-- `finish_ok` (R45): the result registers, STATUS and PHASE in one indivisible step. OUT bytes at offsets OUT_LEN and up are
left unspecified (R68). DEDUCED, assumption 16. -/
def State.finishOk (outLen inPos hdr : Word) (s : State) : State :=
  { s with
    outLen := outLen, inPos := inPos, hdr := hdr, status := .succeeded, phase := .idle,
    outMem := s.outMem.below outLen.toNat, outEpoch := s.outEpoch + 1 }

/-- `raise E(info)` (R146), the core's one error entry: STATUS takes the code, OUT_LEN is 0, IN_POS is the element start, HDR
keeps what this operation gave it, the engine is idle, and every OUT byte is left unspecified (R68, R147). There is no
return from an error (R152): the next command's start_operation clears it. -/
def State.raise (e : ErrorCode) (s : State) : State :=
  { s with
    status := .failed e, outLen := 0#32, inPos := s.estart, phase := .idle,
    outMem := [], outEpoch := s.outEpoch + 1 }

/-- The reset event (R170, R171, R172): every register and internal element takes its reset value, a running operation is
abandoned with no report, and both windows hold new unspecified contents. DEDUCED, assumption 17. -/
def State.resetEvent (s : State) : State :=
  { State.reset with
    cfg := s.cfg, inEpoch := s.inEpoch + 1, outEpoch := s.outEpoch + 1,
    draws := s.draws, rdata := s.rdata, agenda := s.agenda }

/-- A host read returns a word. -/
def State.returnWord (w : Word) (s : State) : State := { s with rdata := w }

/-- A host read returns any word, a fresh one per read (R41). -/
def State.returnFreeWord (s : State) : State :=
  { s with rdata := Config.freeWord s.draws, draws := s.draws + 1 }

/-- A host read returns any byte, a fresh one per read (R68). -/
def State.returnFreeByte (s : State) : State :=
  { s with rdata := (Config.freeByte s.draws).setWidth 32, draws := s.draws + 1 }

/-- What an operation yields (R14), with the registers that report it (R29, R30, R146): the output bytes, or the error code
and its info. -/
inductive OpResult
  | ok (out : List Byte) (inPos : Nat) (hdr : Word)
  | err (code : ErrorCode) (info : Byte) (inPos : Nat) (hdr : Word)
  deriving DecidableEq, Repr

/-- The info of an error: the tag, which is HDR[7:0], for UnsupportedFormat, and 0 otherwise (R14, R30,
R141). DEDUCED, assumption 21. -/
def errorInfo (e : ErrorCode) (hdr : Word) : Byte :=
  match e with
  | .unsupportedFormat => headerTag hdr
  | _ => 0#8

/-- The bytes OUT[0..OUT_LEN−1] (R68). -/
def State.outBytes (s : State) : List Byte := (List.range s.outLen.toNat).map s.outByte

/-- The bytes IN[0..n−1]. -/
def State.inBytes (s : State) (n : Nat) : List Byte := (List.range n).map s.inByte

/-- The result the host can collect, once there is one (R45, R146, R177). -/
def State.result (s : State) : Option OpResult :=
  match s.status with
  | .idle => none
  | .running => none
  | .succeeded => some (.ok s.outBytes s.inPos.toNat s.hdr)
  | .failed e => some (.err e (errorInfo e s.hdr) s.inPos.toNat s.hdr)

end Sys2Proof.Machine
end

