-- ==== Sys2Proof/Machine/Command.lean ====
section
/-!
DEFINITION. The four commands (30_encoding.md R80, R81): a write of CTRL with START = 1. Each starts its operation (10_state.md
R22, R43); the engine then carries it out by the micro-steps of 40_header.md, 41_decode.md and 42_encode.md.
-/

namespace Sys2Proof.Machine

/-- DECODE (R100): the engine enters D_HEADER. -/
def execDecode (s : State) : Host.Outcome State Fault Refusal := State.command .decode s

/-- ENCODE (R130): the engine enters E_HEADER. -/
def execEncode (s : State) : Host.Outcome State Fault Refusal := State.command .encode s

/-- HDR_PARSE (R92): the engine enters H_PARSE. -/
def execHdrParse (s : State) : Host.Outcome State Fault Refusal := State.command .hdrParse s

/-- HDR_SERIALIZE (R93): the engine enters H_SER. -/
def execHdrSerialize (s : State) : Host.Outcome State Fault Refusal := State.command .hdrSerialize s

end Sys2Proof.Machine
end

