-- ==== Sys2Proof/Machine/Stream.lean ====
section
/-!
DEFINITION. The stream elements of DECODE (41_decode.md): HEADER, FLAG, LIT and BREF, the terminal check, what follows each
token, and the COPY micro-operation a BREF issues (R102 to R120).
-/

namespace Sys2Proof.Machine

/-- Done (R116): the operation succeeds with OUT_LEN = L, IN_POS = IPOS and the header word. -/
def State.finishDecode (s : State) : State := State.finishOk (s.l.setWidth 32) s.ipos s.hdr s

/-- `post_token` (R114, R115, R119): shift FLAGS, count the token, and end the decoding, the group, or neither. DEDUCED,
assumption 20: the test is OLEN = L. -/
def State.postToken (s : State) : State :=
  let s1 := { s with flags := flagShift s.flags, bit := s.bit + 1 }
  if s1.olen.toNat = s1.l.toNat then s1.finishDecode
  else if s1.bit = 8#4 then { s1 with phase := .dReadFlag }
  else { s1 with phase := .dToken }

/-- The offset an element is read at, and its element start: 0 for the header, IPOS for every other element (R102, R104, R106,
R107). -/
def State.elementOffset (e : Element) (s : State) : Word :=
  match e with
  | .header => 0#32
  | .flag => s.ipos
  | .lit => s.ipos
  | .bref => s.ipos

/-- ESTART takes the element's start (R101). -/
def State.beginElement (e : Element) (s : State) : State := { s with estart := s.elementOffset e }

/-- TruncatedInput at an element (R117, R143). -/
def State.truncated (e : Element) (s : State) : State := State.raise .truncatedInput (s.beginElement e)

/-- HEADER (R102): too few bytes is TruncatedInput; HDR takes the word before the tag is checked; L takes LEN. -/
def execHeader (len : BitVec 24) (tag : Byte) (s : State) : Host.Outcome State Fault Refusal :=
  if s.n.toNat < 4 then .next (s.truncated .header)
  else
    let s1 := { s.beginElement .header with ipos := 4#32, hdr := headerWord len tag }
    if tag = 0x10#8 then .next { s1 with l := len, phase := .dReadFlag }
    else .next (State.raise .unsupportedFormat s1)

/-- FLAG (R104): FLAGS takes the byte and the group begins. -/
def execFlag (f : Byte) (s : State) : Host.Outcome State Fault Refusal :=
  if s.n.toNat ≤ s.ipos.toNat then .next (s.truncated .flag)
  else .next { s.beginElement .flag with flags := f, ipos := s.ipos + 1, bit := 0#4, phase := .dToken }

/-- LIT (R106): append the byte, then what follows a token (R114). -/
def execLit (v : Byte) (s : State) : Host.Outcome State Fault Refusal :=
  if s.n.toNat ≤ s.ipos.toNat then .next (s.truncated .lit)
  else State.emitThen v State.postToken { s.beginElement .lit with ipos := s.ipos + 1 }

/-- BREF (R107 to R110): truncation is checked before the displacement (R149); a source before the start of the output is
InvalidBackReference (R108); otherwise the copy is set up with its count clamped to L (R109) and its path chosen (R110). -/
def execBref (tlen : BitVec 5) (disp : BitVec 12) (s : State) : Host.Outcome State Fault Refusal :=
  if s.n.toNat < s.ipos.toNat + 2 then .next (s.truncated .bref)
  else
    let s1 := { s.beginElement .bref with ipos := s.ipos + 2 }
    let ptr := copySource s.olen disp
    let cnt := copyCount tlen s.l s.olen
    if ptr < 0 then .next (State.raise .invalidBackReference s1)
    else
      .next { s1 with
        cptr := BitVec.ofInt 24 ptr, crem := BitVec.ofNat 5 cnt,
        cbulk := copyIsBulk ptr cnt s.olen, phase := .dCopy }

/-- What the copy engine does after the byte is written: advance CPTR, count down CREM, and leave D_COPY with the last byte
(R119, R120). -/
def State.afterCopy (s : State) : State :=
  let s1 := { s with cptr := s.cptr + 1, crem := s.crem - 1 }
  if s1.crem = 0#5 then s1.postToken else s1

/-- COPY (R120): append OUT[CPTR], which may be the byte the last COPY wrote (R112, R176). Both copy paths take this step, since
the path has no effect on the result (R113). DEDUCED, assumption 22. -/
def State.copyStep (s : State) : Host.Outcome State Fault Refusal :=
  State.emitThen (s.outByte s.cptr.toNat) State.afterCopy s

end Sys2Proof.Machine
end

