-- ==== Sys2Proof/Machine/Dispatch.lean ====
section
/-!
DEFINITION. The meaning of each instruction, one arm per row of the opcode table.
-/

namespace Sys2Proof.Machine

def exec (i : Instr) (s : State) : Host.Outcome State Fault Refusal :=
  match i with
  | .decode => Sys2Proof.Machine.execDecode s
  | .encode => Sys2Proof.Machine.execEncode s
  | .hdrParse => Sys2Proof.Machine.execHdrParse s
  | .hdrSerialize => Sys2Proof.Machine.execHdrSerialize s
  | .header len tag => Sys2Proof.Machine.execHeader len tag s
  | .flag f => Sys2Proof.Machine.execFlag f s
  | .lit v => Sys2Proof.Machine.execLit v s
  | .bref tlen disp => Sys2Proof.Machine.execBref tlen disp s

end Sys2Proof.Machine
end

