-- ==== Sys2Proof/Machine/Header.lean ====
section
/-!
DEFINITION. The format header (40_header.md): the pure functions parse and serialize (R90, R91), and the micro-steps of the
commands HDR_PARSE and HDR_SERIALIZE (R92, R93).
-/

namespace Sys2Proof.Machine

/-- `parse(b)` (R90): the header fields, or the error with its info. It reads only the first four bytes. -/
def parse : List Byte → Except (ErrorCode × Byte) (BitVec 24 × Byte)
  | b0 :: b1 :: b2 :: b3 :: _ =>
    let word := fromLE32 b0 b1 b2 b3
    if headerTag word = 0x10#8 then .ok (headerLen word, headerTag word)
    else .error (.unsupportedFormat, headerTag word)
  | _ => .error (.truncatedInput, 0#8)

/-- The word of `serialize(n)` (R91): `(n << 8) | 0x10` modulo 2^32, unless REJECT refuses a length of 2^24 or more. -/
def serializeWord (mode : LenOverflowMode) (n : Word) : Except ErrorCode Word :=
  if 2 ^ 24 ≤ n.toNat then
    match mode with
    | .reject => .error .lengthOverflow
    | .truncate => .ok ((n <<< 8) ||| 0x10#32)
  else .ok ((n <<< 8) ||| 0x10#32)

/-- `serialize(n)` (R91): the four header bytes, or LengthOverflow. -/
def serialize (mode : LenOverflowMode) (n : Word) : Except (ErrorCode × Byte) (List Byte) :=
  match serializeWord mode n with
  | .ok word => .ok (le32 word)
  | .error e => .error (e, 0#8)

/-- The engine step H_PARSE (R92): HDR is written before the tag check, and the OUT window is not written.
DEDUCED, assumption 19: ESTART. -/
def State.hParseStep (s : State) : State :=
  if s.n.toNat < 4 then State.raise .truncatedInput { s with estart := 0#32 }
  else
    let word := fromLE32 (s.inByte 0) (s.inByte 1) (s.inByte 2) (s.inByte 3)
    let s1 := { s with estart := 0#32, ipos := 4#32, hdr := word }
    if headerTag word = 0x10#8 then State.finishOk 0#32 4#32 word s1
    else State.raise .unsupportedFormat s1

/-- Write the four bytes of a header word to OUT[0..3] and set OLEN to 4 (R93, R131). -/
def State.writeHeader (word : Word) (s : State) : State :=
  { s with outMem := s.outMem.setAll 0 (le32 word), olen := 4#32 }

/-- The engine step H_SER (R93): N is the length to serialize; nothing is read. -/
def State.hSerStep (s : State) : State :=
  match serializeWord s.cfg.lenOverflow s.n with
  | .error e => State.raise e { s with estart := 0#32 }
  | .ok word => State.finishOk 4#32 0#32 word (s.writeHeader word)

end Sys2Proof.Machine
end

