-- ==== Sys2Proof/Machine/Encoder.lean ====
section
/-!
DEFINITION. The micro-steps of ENCODE (42_encode.md R136), which carry out the all-literal encoder of R131.
-/

namespace Sys2Proof.Machine

/-- E_HEADER (R136): the header of N, or LengthOverflow before anything is written (R151). HDR takes the word. -/
def State.eHeaderStep (s : State) : State :=
  match serializeWord s.cfg.lenOverflow s.n with
  | .error e => State.raise e { s with estart := 0#32 }
  | .ok word => { s.writeHeader word with hdr := word, phase := .eFlag }

/-- The literals of the next group, `min(8, N − IPOS)` (R131). -/
def groupCount (n ipos : Word) : Nat := min 8 (n.toNat - ipos.toNat)

/-- E_FLAG (R136): finish when all input is emitted, else write the flag byte 0x00 and begin a group. -/
def State.eFlagStep (s : State) : Host.Outcome State Fault Refusal :=
  if s.ipos = s.n then .next (State.finishOk s.olen s.n s.hdr s)
  else
    State.emitThen 0x00#8
      (fun t => { t with gcnt := BitVec.ofNat 4 (groupCount s.n s.ipos), phase := .eLit }) s

/-- What follows a literal of the encoder: IPOS and GCNT move on, and the group ends with its last literal (R136). -/
def State.afterLiteral (s : State) : State :=
  let s1 := { s with ipos := s.ipos + 1, gcnt := s.gcnt - 1 }
  if s1.gcnt = 0#4 then { s1 with phase := .eFlag } else s1

/-- E_LIT (R136): copy one input byte to the output. -/
def State.eLitStep (s : State) : Host.Outcome State Fault Refusal :=
  State.emitThen (s.inByte s.ipos.toNat) State.afterLiteral s

end Sys2Proof.Machine
end

