-- ==== Sys2Proof/Machine/Sequence.lean ====
section
/-!
DEFINITION. How the engine takes a step: which element it reads and from which bytes (30_encoding.md R81, 20_memory.md R51),
and the micro-step of each phase (41_decode.md R119, 42_encode.md R136, 40_header.md R92, R93).
-/

namespace Sys2Proof.Machine

/-- The bytes an element is read from: at most four, all at offsets below N, so that no byte at or beyond N is ever read (R51,
R180). -/
def State.available (e : Element) (s : State) : List Byte :=
  (List.range (min 4 (s.n.toNat - (s.elementOffset e).toNat))).map
    (fun k => s.inByte ((s.elementOffset e).toNat + k))

/-- Read and run one stream element: a lack of bytes is TruncatedInput (R117). -/
def State.runElement (e : Element) (s : State) : Host.Outcome State Fault Refusal :=
  match decodeElement e (s.available e) with
  | .ok (i, _) => exec i s
  | .error _ => .next (s.truncated e)

/-- The micro-step of the current phase (R40). An idle engine does nothing (R162). D_READ_FLAG makes the terminal check
before any flag byte is read (R103). -/
def State.phaseStep (s : State) : Host.Outcome State Fault Refusal :=
  match s.phase with
  | .idle => .next s
  | .hParse => .next s.hParseStep
  | .hSer => .next s.hSerStep
  | .dHeader => s.runElement .header
  | .dReadFlag => if s.olen.toNat = s.l.toNat then .next s.finishDecode else s.runElement .flag
  | .dToken => s.runElement (tokenElement s.flags)
  | .dCopy => s.copyStep
  | .eHeader => .next s.eHeaderStep
  | .eFlag => s.eFlagStep
  | .eLit => s.eLitStep

/-- One engine step. A launch that breaks the host's duty has no step at all (R55): such a state is refused, however it came
about. DEDUCED, assumption 26. -/
def State.engineStep (s : State) : Host.Outcome State Fault Refusal :=
  if s.phase = .idle then .next s
  else
    match launchRefusal s.cfg s.curOp s.n with
    | some r => .refused r
    | none => s.phaseStep

end Sys2Proof.Machine
end

