-- ==== Sys2Proof/Machine/Bus.lean ====
section
/-!
DEFINITION. What the host and the platform do to the core (60_exceptions.md R164): register accesses (10_state.md R20 to R30,
20_memory.md R59), window accesses (R60), the reset event (R170), and the placing of an instruction where the next step
takes it.
-/

namespace Sys2Proof.Machine

/-- Whether a register access is one the model gives a step: 32 bits wide, aligned, within 0x00 to 0x1F (R59). -/
def registerAccessOk (width : AccessWidth) (off : Nat) : Bool :=
  decide (width = .bits32) && decide (off % 4 = 0) && decide (off < 0x20)

/-- A read of a register whose value is not defined while BUSY: any value then, the register otherwise (R41, R177). -/
def State.readResult (w : Word) (s : State) : State :=
  if s.busy then s.returnFreeWord else s.returnWord w

/-- A host read of the register at an offset (R20, R23, R24, R26, R41). Reserved words read 0. -/
def State.regRead (off : Nat) (s : State) : State :=
  if off = 0x00 then s.returnWord (ctrlWord s.op)
  else if off = 0x04 then s.returnWord s.status.word
  else if off = 0x08 then s.returnWord s.inLen
  else if off = 0x0C then s.readResult s.outLen
  else if off = 0x10 then s.readResult s.inPos
  else if off = 0x14 then s.readResult s.hdr
  else s.returnWord 0#32

/-- A host write of CTRL (R22): a command if START is set, else only OP is written; nothing at all while BUSY. -/
def State.writeCtrl (w : Word) (s : State) : Host.Outcome State Fault Refusal :=
  match decodeCommand w with
  | .ok i => exec i s
  | .error _ => .next (if s.busy then s else { s with op := commandOp w })

/-- A host write of the register at an offset: CTRL (R22), IN_LEN (R27, ignored while BUSY); every other word ignores writes
(R26). -/
def State.regWrite (off : Nat) (w : Word) (s : State) : Host.Outcome State Fault Refusal :=
  if off = 0x00 then s.writeCtrl w
  else if off = 0x08 then .next (if s.busy then s else { s with inLen := w })
  else .next s

/-- Go on with a window access if the offset exists (R50). -/
def State.atOffset (sp : Space) (off : Nat) (s : State)
    (k : Host.Outcome State Fault Refusal) : Host.Outcome State Fault Refusal :=
  if off < spaceSize s.cfg sp then k else .fault (.hostWindowOffset sp)

/-- One move of the agenda (R164). Reads have no effect on the core (R61). While BUSY a window read returns any value (R68) and
a window write has no model step (R66). Assumptions 12 (DEDUCED), 14 (DESIGN CHOICE) and 15 (DEDUCED). -/
def State.move (m : Move) (s : State) : Host.Outcome State Fault Refusal :=
  match m with
  | .engine => s.engineStep
  | .reset => .next s.resetEvent
  | .regRead width off => if registerAccessOk width off then .next (s.regRead off) else .refused .badRegisterAccess
  | .regWrite width off v => if registerAccessOk width off then s.regWrite off v else .refused .badRegisterAccess
  | .inRead off =>
    s.atOffset .inWindow off
      (.next (if s.busy then s.returnFreeByte else s.returnWord ((s.inByte off).setWidth 32)))
  | .inWrite off v =>
    s.atOffset .inWindow off
      (if s.busy then .refused .windowWriteWhileBusy else .next { s with inMem := s.inMem.set off v })
  | .outRead off =>
    s.atOffset .outWindow off
      (.next (if s.busy then s.returnFreeByte else s.returnWord ((s.outByte off).setWidth 32)))
  | .outWrite off v =>
    s.atOffset .outWindow off
      (if s.busy then .refused .windowWriteWhileBusy else .next { s with outMem := s.outMem.set off v })

/-- Place a command where the next step takes it: a host write of CTRL, first on the agenda (R22). -/
def State.placeCommand (w : Word) (s : State) : State :=
  { s with agenda := .regWrite .bits32 0x00 w :: s.agenda }

/-- The phase in which the engine reads an element (R119). -/
def elementPhase : Element → Phase
  | .header => .dHeader
  | .flag => .dReadFlag
  | .lit => .dToken
  | .bref => .dToken

/-- FLAGS with bit 7 selecting the element, the other bits as they were (R105). -/
def selectElement (e : Element) (flags : Byte) : Byte :=
  match e with
  | .header => flags
  | .flag => flags
  | .lit => flags &&& 0x7F#8
  | .bref => flags ||| 0x80#8

/-- Place a stream element where the next step takes it: a running DECODE, in the element's phase and with its flag bit, whose
input holds the element's bytes at its offset and ends after them; L is the largest, since a flag byte is read and a token
starts only while OLEN < L (R103, R109). DESIGN CHOICE, assumption 6. -/
def State.placeElement (e : Element) (bytes : List Byte) (s : State) : State :=
  { s with
    agenda := .engine :: s.agenda,
    status := .running, op := .decode, curOp := .decode, phase := elementPhase e,
    flags := selectElement e s.flags,
    l := 0xFFFFFF#24,
    n := s.elementOffset e + BitVec.ofNat 32 bytes.length,
    inMem := s.inMem.setAll (s.elementOffset e).toNat bytes }

/-- Place a code where the next step takes it. -/
def State.placeCode (c : Option Code) (s : State) : State :=
  match c with
  | none => s
  | some (.ctrl w) => s.placeCommand w
  | some (.stream e bytes) => s.placeElement e bytes

end Sys2Proof.Machine
end

