-- ==== Sys2Proof/Machine/Step.lean ====
section
/-!
DEFINITION. The step of the machine: the next move of the agenda if there is one, else the engine runs on (10_state.md R40,
60_exceptions.md R164); and the host's placing of an instruction where the next step fetches it.
-/

namespace Sys2Proof.Machine

/-- One step. With an empty agenda the engine goes on, so that a started operation completes (R183). -/
def step (s : State) : Host.Outcome State Fault Refusal :=
  match s.agenda with
  | [] => s.engineStep
  | m :: rest => State.move m { s with agenda := rest }

/-- The state whose next step takes the instruction with the table word w (assumption 9). -/
def State.withFetchWord (s : State) (nbits w : Nat) : State := s.placeCode (tableCode nbits w)

end Sys2Proof.Machine
end

