-- ==== Sys2Proof/Machine/Listing.lean ====
section
/-!
DEFINITION. The listing syntax of streams and its assembler (30_encoding.md R86 to R89). It belongs to the listing tool, not to
the engine: every byte sequence is a legal input of the core, spelled by a listing or not (R89).
-/

namespace Sys2Proof.Machine

/-- A token inside GROUP (R87). LITS stands for one LIT per byte of its string (R88). -/
inductive ListingToken
  | lit (v : Nat)
  | bref (len disp : Nat)
  | lits (text : List Char)
  deriving DecidableEq, Repr

/-- A line of a listing (R86, R87). -/
inductive ListingLine
  | hdr (len : Nat)
  | hdrw (w : Word)
  | flag (f : Nat)
  | lit (v : Nat)
  | bref (len disp : Nat)
  | raw (b : Nat)
  | group (tokens : List ListingToken)
  deriving DecidableEq, Repr

/-- Why the listing assembler refuses a line (R89). -/
inductive ListingRefusal
  | brefLength
  | brefDisplacement
  | headerLength
  | byteRange
  | groupSize
  deriving DecidableEq, Repr

/-- The byte sequence of a stream code; a command stands in no stream. -/
def codeBytes : Code → List Byte
  | .ctrl _ => []
  | .stream _ bytes => bytes

/-- The code of a character operand `'c'` (R86, 93 G1). DESIGN CHOICE, assumption 27. -/
def charOperand (c : Char) : Nat := c.toNat

/-- A byte operand of LIT, RAW or FLAG: 0..255 (R89). -/
def byteOperand (v : Nat) : Except ListingRefusal Byte :=
  if v < 256 then .ok (BitVec.ofNat 8 v) else .error .byteRange

/-- A BREF's bytes: len 3..18 and disp 0..4095 (R86, R89). -/
def brefOperand (len disp : Nat) : Except ListingRefusal (List Byte) :=
  if len < 3 ∨ 18 < len then .error .brefLength
  else if 4095 < disp then .error .brefDisplacement
  else .ok (codeBytes (encodeInstr (.bref (BitVec.ofNat 5 len) (BitVec.ofNat 12 disp))))

/-- The tokens of a group with LITS written out (R88). -/
def expandTokens (tokens : List ListingToken) : List ListingToken :=
  tokens.flatMap (fun t =>
    match t with
    | .lit v => [.lit v]
    | .bref len disp => [.bref len disp]
    | .lits text => text.map (fun c => .lit (charOperand c)))

/-- The bytes of one token (R86, R88). -/
def tokenBytes : ListingToken → Except ListingRefusal (List Byte)
  | .lit v => (byteOperand v).map (fun b => codeBytes (encodeInstr (.lit b)))
  | .bref len disp => brefOperand len disp
  | .lits text => text.mapM (fun c => byteOperand (charOperand c))

/-- The flag byte of a group (R87): token j, counted from 1, takes bit 8 − j, set if the token is a BREF. -/
def groupFlag (tokens : List ListingToken) : Nat :=
  (tokens.zipIdx.map (fun (p : ListingToken × Nat) =>
    match p.1 with
    | .bref _ _ => 2 ^ (7 - p.2)
    | .lit _ => 0
    | .lits _ => 0)).sum

/-- The bytes a line emits, or why it emits none (R86, R87, R89). -/
def assembleLine : ListingLine → Except ListingRefusal (List Byte)
  | .hdr len =>
    if len < 2 ^ 24 then .ok (codeBytes (encodeInstr (.header (BitVec.ofNat 24 len) 0x10#8))) else .error .headerLength
  | .hdrw w => .ok (le32 w)
  | .flag f => (byteOperand f).map (fun b => codeBytes (encodeInstr (.flag b)))
  | .lit v => (byteOperand v).map (fun b => codeBytes (encodeInstr (.lit b)))
  | .bref len disp => brefOperand len disp
  | .raw b => (byteOperand b).map (fun b => [b])
  | .group tokens =>
    if 8 < (expandTokens tokens).length then .error .groupSize
    else
      ((expandTokens tokens).mapM tokenBytes).map
        (fun bs => BitVec.ofNat 8 (groupFlag (expandTokens tokens)) :: bs.flatten)

/-- The bytes of a listing: a refused line emits nothing (R89). -/
def assemble (lines : List ListingLine) : List Byte :=
  lines.flatMap (fun line =>
    match assembleLine line with
    | .ok bytes => bytes
    | .error _ => [])

end Sys2Proof.Machine
end

