-- ==== Sys2Proof/Machine/Platform.lean ====
section
/-!
DEFINITION. Several instances side by side (60_exceptions.md R163): each has its own register file, windows and engine, and they
share nothing, so a step of the platform is a step of one of them.
-/

namespace Sys2Proof.Machine

/-- A platform's instances, in no order that matters to them: they have no identifiers of their own (R163). -/
structure Platform where
  instances : List State
  deriving DecidableEq, Repr

/-- Instance k takes its step and the others stay as they are. A number with no instance does nothing. DESIGN CHOICE,
assumption 25. -/
def Platform.stepAt (p : Platform) (k : Nat) : Host.Outcome Platform Fault Refusal :=
  match p.instances[k]? with
  | none => .next p
  | some s =>
    match step s with
    | .next t => .next { p with instances := p.instances.set k t }
    | .fault f => .fault f
    | .refused r => .refused r

end Sys2Proof.Machine
end

