-- ==== Sys2Proof/Machine/Codec.lean ====
section
/-!
DEFINITION. The codec at operation level, as functions of the input bytes alone (10_state.md R42): DECODE as 41_decode.md R101
defines it, with both copy paths (R111, R112) and their closed form (R113); ENCODE as 42_encode.md R131 defines it. The
micro-step machine is to be held against these.
-/

namespace Sys2Proof.Machine

/-- The bulk copy (R111): every source byte is read from the output before the copy. A source byte past its end, which the
path test rules out, reads as 0. -/
def bulkCopy (out : List Byte) (ptr cnt : Nat) : List Byte :=
  out ++ (List.range cnt).map (fun k => out.getD (ptr + k) 0#8)

/-- The byte-by-byte copy (R112): each byte read may be one this copy has just written. -/
def bytewiseCopy (out : List Byte) (ptr : Nat) : (cnt : Nat) → List Byte
  | 0 => out
  | cnt + 1 => bytewiseCopy (out ++ [out.getD ptr 0#8]) (ptr + 1) cnt

/-- The closed form of R113: `OUT[o + k] = B[ptr + (k mod d)]` with d = o − ptr. -/
def closedCopy (out : List Byte) (ptr cnt : Nat) : List Byte :=
  out ++ (List.range cnt).map (fun k => out.getD (ptr + k % (out.length - ptr)) 0#8)

/-- A back-reference's copy by the path R110 selects: bulk if the source range ends before the output does. -/
def copyBytes (out : List Byte) (ptr cnt : Nat) : List Byte :=
  if ptr + cnt < out.length then bulkCopy out ptr cnt else bytewiseCopy out ptr cnt

/-- The loop of R101 from a point in the stream. `left` is how many more tokens the group may hold (8 − BIT), 0 meaning that
a flag byte comes next; `flags` is FLAGS; `pos` is IPOS; `out` is the output so far; the list is the input from IPOS on. -/
def decodeFrom (l : Nat) (hdr : Word) (left : Nat) (flags : Byte) (pos : Nat) (out : List Byte) :
    List Byte → OpResult
  | [] => if out.length = l then .ok out pos hdr else .err .truncatedInput 0#8 pos hdr
  | c0 :: rest =>
    if out.length = l then .ok out pos hdr
    else
      match left with
      | 0 => decodeFrom l hdr 8 c0 (pos + 1) out rest
      | left + 1 =>
        if flags.getLsbD 7 then
          match rest with
          | [] => .err .truncatedInput 0#8 pos hdr
          | c1 :: rest =>
            if out.length < (brefDisp (fromBE16 c0 c1)).toNat + 1 then .err .invalidBackReference 0#8 pos hdr
            else
              decodeFrom l hdr left (flags <<< 1) (pos + 2)
                (copyBytes out (out.length - (brefDisp (fromBE16 c0 c1)).toNat - 1)
                  (min (brefTlen (fromBE16 c0 c1)).toNat (l - out.length)))
                rest
        else decodeFrom l hdr left (flags <<< 1) (pos + 1) (out ++ [c0]) rest

/-- DECODE at operation level (R101): the header stage, then the loop. -/
def decodeBytes : List Byte → OpResult
  | b0 :: b1 :: b2 :: b3 :: rest =>
    let word := fromLE32 b0 b1 b2 b3
    if headerTag word = 0x10#8 then decodeFrom (headerLen word).toNat word 0 0#8 4 [] rest
    else .err .unsupportedFormat (headerTag word) 0 word
  | _ => .err .truncatedInput 0#8 0 0#32

/-- The groups of R131: a flag byte 0x00 before every run of up to 8 raw bytes. `left` is how many more literals the group
takes, 0 meaning that a flag byte comes next. -/
def literalGroups (left : Nat) : List Byte → List Byte
  | [] => []
  | b :: rest =>
    match left with
    | 0 => 0x00#8 :: b :: literalGroups 7 rest
    | left + 1 => b :: literalGroups left rest

/-- ENCODE at operation level (R131): the header of the length, then the groups. -/
def encodeBytes (mode : LenOverflowMode) (input : List Byte) : OpResult :=
  match serializeWord mode (BitVec.ofNat 32 input.length) with
  | .error e => .err e 0#8 0 0#32
  | .ok word => .ok (le32 word ++ literalGroups 0 input) input.length word

/-- The declared length of a stream, if its header is readable and its tag right; 0 otherwise (R71). -/
def declaredLength : List Byte → Nat
  | b0 :: b1 :: b2 :: b3 :: _ =>
    if headerTag (fromLE32 b0 b1 b2 b3) = 0x10#8 then (headerLen (fromLE32 b0 b1 b2 b3)).toNat else 0
  | _ => 0

end Sys2Proof.Machine
end

