-- ==== Sys2Proof/Safety.lean ====
section
/-!
DEFINITION. What a sound state is: the invariant of the machine, phase by phase, from the derived facts of 10_state.md R25, R34,
R36, R38, R39, 41_decode.md R108, R109, R116, R120 and 42_encode.md R132; and running the engine for a number of steps.
-/

namespace Sys2Proof.Machine

/-- Run the engine for k micro-steps, stopping at a fault or refusal (R119, R136). An idle engine stays as it is. -/
def engineRun : Nat → State → Host.Outcome State Fault Refusal
  | 0, s => .next s
  | k + 1, s =>
    match s.engineStep with
    | .next t => engineRun k t
    | .fault f => .fault f
    | .refused r => .refused r

/-- The element the engine reads next, if its phase reads one: HEADER first, FLAG unless the output is complete (R103), then the
token the current flag bit selects (R81, R105). -/
def State.nextElement (s : State) : Option Element :=
  match s.phase with
  | .dHeader => some .header
  | .dReadFlag => if s.olen.toNat = s.l.toNat then none else some .flag
  | .dToken => some (tokenElement s.flags)
  | .idle => none
  | .hParse => none
  | .hSer => none
  | .dCopy => none
  | .eHeader => none
  | .eFlag => none
  | .eLit => none

/-- What no engine step and no stream element writes: the instance's parameters, CTRL.OP, IN_LEN (R27), what START latched
(R43), the IN window (R51), and what belongs to the host's side. -/
structure EngineFrame (s t : State) : Prop where
  cfg : t.cfg = s.cfg
  op : t.op = s.op
  inLen : t.inLen = s.inLen
  curOp : t.curOp = s.curOp
  n : t.n = s.n
  inMem : t.inMem = s.inMem
  inEpoch : t.inEpoch = s.inEpoch
  draws : t.draws = s.draws
  rdata : t.rdata = s.rdata
  agenda : t.agenda = s.agenda

/-- A FAILED end (R146): the code in STATUS, no output, IN_POS at the element start, the engine idle, and every OUT byte left to
contents nothing is known of (R68, R147). -/
structure FailedWith (e : ErrorCode) (inPos : Word) (hdr : Word) (t : State) : Prop where
  status : t.status = .failed e
  outLen : t.outLen = 0#32
  inPos : t.inPos = inPos
  hdr : t.hdr = hdr
  phase : t.phase = .idle
  out : ∀ k, t.outByte k = Config.freeOutByte t.outEpoch k

/-- A SUCCEEDED end (R45). -/
structure SucceededWith (outLen inPos hdr : Word) (t : State) : Prop where
  status : t.status = .succeeded
  outLen : t.outLen = outLen
  inPos : t.inPos = inPos
  hdr : t.hdr = hdr
  phase : t.phase = .idle

/-- Every OUT byte below a bound has a known value: none of the unspecified ones (R68, R120). -/
def State.outKnown (s : State) (bound : Nat) : Prop := ∀ k, k < bound → (s.outMem.get? k).isSome = true

/-- Past the header stage of DECODE: the input pointer is within the input (R34), HDR holds the header word with the only legal
tag and LEN = L (R30, R71), and every output byte so far is known (R52). -/
structure Decoding (s : State) : Prop where
  curOp : s.curOp = .decode
  iposLow : 4 ≤ s.ipos.toNat
  iposHigh : s.ipos.toNat ≤ s.n.toNat
  header : s.hdr = headerWord s.l 0x10#8
  known : s.outKnown s.olen.toNat

/-- Past the header stage of ENCODE: the input pointer is within the input, and HDR holds the word serialize gives for N
(R131). -/
structure Encoding (s : State) : Prop where
  curOp : s.curOp = .encode
  iposHigh : s.ipos.toNat ≤ s.n.toNat
  header : serializeWord s.cfg.lenOverflow s.n = .ok s.hdr
  known : s.outKnown s.olen.toNat

/-- What holds in each phase (R36, R38, R39, R109, R120, R132, R136). -/
def PhaseInv (s : State) : Prop :=
  match s.phase with
  | .idle => True
  | .hParse => s.curOp = .hdrParse
  | .hSer => s.curOp = .hdrSerialize
  | .dHeader => s.curOp = .decode ∧ s.olen = 0#32
  | .dReadFlag => Decoding s ∧ s.olen.toNat ≤ s.l.toNat
  | .dToken => Decoding s ∧ s.olen.toNat < s.l.toNat ∧ s.bit.toNat < 8
  | .dCopy =>
    Decoding s ∧ s.bit.toNat < 8 ∧ s.cptr.toNat < s.olen.toNat ∧
      1 ≤ s.crem.toNat ∧ s.crem.toNat ≤ 18 ∧ s.olen.toNat + s.crem.toNat ≤ s.l.toNat
  | .eHeader => s.curOp = .encode ∧ s.ipos = 0#32
  | .eFlag =>
    Encoding s ∧ s.olen.toNat = 4 + s.ipos.toNat + ceilDiv s.ipos.toNat 8 ∧
      (s.ipos.toNat % 8 = 0 ∨ s.ipos = s.n)
  | .eLit =>
    Encoding s ∧ s.olen.toNat = 5 + s.ipos.toNat + s.ipos.toNat / 8 ∧
      s.gcnt.toNat = min (8 - s.ipos.toNat % 8) (s.n.toNat - s.ipos.toNat) ∧ 1 ≤ s.gcnt.toNat

/-- What holds of the result registers when no operation runs (R25, R28, R30, R44, R116, R146): nothing after reset; after a
success OUT_LEN known bytes, and for DECODE the declared length; after an error no output, and for UnsupportedFormat a tag
that is not 0x10. -/
def ResultInv (s : State) : Prop :=
  match s.status with
  | .idle => s.outLen = 0#32 ∧ s.inPos = 0#32 ∧ s.hdr = 0#32
  | .running => True
  | .succeeded =>
    s.outKnown s.outLen.toNat ∧
      (s.curOp = .decode → s.outLen.toNat = (headerLen s.hdr).toNat ∧ headerTag s.hdr = 0x10#8 ∧ 4 ≤ s.inPos.toNat)
  | .failed e => s.outLen = 0#32 ∧ (e = .unsupportedFormat → headerTag s.hdr ≠ 0x10#8)

/-- The invariant of the machine. -/
structure Inv (s : State) : Prop where
  /-- The IN window is in canonical form and within its capacity (R50). -/
  inWf : s.inMem.wf
  inBound : ∀ c ∈ s.inMem, c.1 < s.cfg.inCap
  /-- The OUT window is in canonical form and within its capacity (R50). -/
  outWf : s.outMem.wf
  outBound : ∀ c ∈ s.outMem, c.1 < s.cfg.outCap
  /-- PHASE is IDLE exactly when STATUS is not RUNNING (R40, R43, R45, R146). -/
  phaseStatus : s.phase = .idle ↔ s.busy = false
  /-- While an operation runs, OP and IN_LEN are the ones it was started with (R22, R23, R27), and the launch keeps the host's
  duty (R55). -/
  launched : s.busy = true → s.op = s.curOp ∧ s.inLen = s.n ∧ launchRefusal s.cfg s.curOp s.n = none
  /-- What the phase says. -/
  phaseInv : PhaseInv s
  /-- What the result registers say. -/
  resultInv : ResultInv s

end Sys2Proof.Machine
end

