-- ==== Sys2Proof/Certificates/Slice0/Obligations.lean ====
section
/-!
DEFINITION. The statements for the provers, one definition each. R<n> names a rule of spec/.
-/

open Sys2Proof Sys2Proof.Machine

/-! ## Encodings -/

/-- R71, R73, R74, R75, R80, R86: encoding a well-formed instruction and decoding it gives it back, with exactly the bytes after
it left over; every operand at every value its field admits. -/
def Obligations.EncodeThenDecodeGivesInstruction : Prop :=
  ∀ (i : Instr) (more : List Byte), i.wellFormed = true →
    decodeInstr ((encodeInstr i).withTrailing more) =
      .ok (i, match encodeInstr i with
        | .ctrl _ => []
        | .stream _ _ => more)

/-- R57, R71, R73, R74, R75: what the decoder reads is exactly the encoding of what it answers, so no bit of a stream element is
dropped and none is read twice. -/
def Obligations.DecodedElementReencodesToItsBytes : Prop :=
  ∀ (e : Element) (bytes rest : List Byte) (i : Instr), decodeElement e bytes = .ok (i, rest) →
    ∃ p, encodeInstr i = .stream e p ∧ p.length = elementBytes e ∧ bytes = p ++ rest

/-- R85: the only bytes an element cannot be decoded from are too few; every value is a legal encoding. -/
def Obligations.ElementIsRejectedOnlyWhenTooShort : Prop :=
  ∀ (e : Element) (bytes : List Byte),
    (decodeElement e bytes = .error .truncated ↔ bytes.length < elementBytes e) ∧
      (elementBytes e ≤ bytes.length → ∃ i, decodeElement e bytes = .ok (i, bytes.drop (elementBytes e)))

/-- R80: a word written to CTRL is matched by its bits 2:0 alone; the four command words with zero reserved bits are the
encodings. -/
def Obligations.CommandWordIsMatchedByItsLowBits : Prop :=
  (∀ w : Word, decodeCommand w =
    if w.toNat % 8 = 1 then .ok .decode
    else if w.toNat % 8 = 3 then .ok .encode
    else if w.toNat % 8 = 5 then .ok .hdrParse
    else if w.toNat % 8 = 7 then .ok .hdrSerialize
    else .error .startClear) ∧
  encodeInstr .decode = .ctrl 0x00000001#32 ∧ encodeInstr .encode = .ctrl 0x00000003#32 ∧
  encodeInstr .hdrParse = .ctrl 0x00000005#32 ∧ encodeInstr .hdrSerialize = .ctrl 0x00000007#32

/-- A few words of the spec's own tables decode as the spec says (95_test_vectors.md 2.3, G3, P1; R71's example). -/
def Obligations.SpecWordsDecodeAsTabled : Prop :=
  decodeCommand 0xFFFFFFF9#32 = .ok .decode ∧
  decodeElement .header [0x10#8, 0x0A#8, 0x00#8, 0x00#8] = .ok (.header 10#24 0x10#8, []) ∧
  decodeElement .flag [0x10#8] = .ok (.flag 0x10#8, []) ∧
  decodeElement .lit [0x41#8] = .ok (.lit 0x41#8, []) ∧
  decodeElement .bref [0x40#8, 0x02#8] = .ok (.bref 7#5 2#12, []) ∧
  decodeElement .bref [0x12#8, 0x34#8] = .ok (.bref 4#5 564#12, []) ∧
  decodeElement .bref [0x7F#8, 0x00#8] = .ok (.bref 10#5 3840#12, [])

/-- R76: TLEN = 3 + info[15:12], 3..18, and DISP = info[11:0], 0..4095, both unsigned; the copy source stands DISP + 1 bytes,
1..4096, before the output position. -/
def Obligations.BackReferenceOperandsAreAssembled : Prop :=
  ∀ info : BitVec 16,
    (brefTlen info).toNat = 3 + info.toNat / 4096 ∧ (brefDisp info).toNat = info.toNat % 4096 ∧
      3 ≤ (brefTlen info).toNat ∧ (brefTlen info).toNat ≤ 18 ∧ (brefDisp info).toNat ≤ 4095 ∧
      ∀ olen : Word, copySource olen (brefDisp info) = (olen.toNat : Int) - ((brefDisp info).toNat + 1)

/-- R72: LEN = word >> 8 and TAG = word & 0xFF, neither sign-extended nor scaled. -/
def Obligations.HeaderOperandsAreAssembled : Prop :=
  ∀ w : Word, (headerLen w).toNat = w.toNat / 256 ∧ (headerTag w).toNat = w.toNat % 256

/-- R56: the header is little-endian and a back-reference big-endian, and flag bits are consumed from bit 7 down. -/
def Obligations.ByteOrderIsFixed : Prop :=
  (∀ b0 b1 b2 b3 : Byte,
    (fromLE32 b0 b1 b2 b3).toNat = b0.toNat + 256 * b1.toNat + 65536 * b2.toNat + 16777216 * b3.toNat ∧
      le32 (fromLE32 b0 b1 b2 b3) = [b0, b1, b2, b3] ∧ headerTag (fromLE32 b0 b1 b2 b3) = b0) ∧
  (∀ c0 c1 : Byte, (fromBE16 c0 c1).toNat = 256 * c0.toNat + c1.toNat ∧ be16 (fromBE16 c0 c1) = [c0, c1]) ∧
  (∀ (f : Byte) (j : Nat), j < 8 → flagSelectsBref (flagShift^[j] f) = f.getLsbD (7 - j))

/-! ## The header functions -/

/-- R90: parse fails with TruncatedInput below four bytes, with UnsupportedFormat of the tag if it is not 0x10, and gives LEN and
TAG otherwise; bytes after the fourth do not matter. -/
def Obligations.ParseGivesHeaderOrError : Prop :=
  (∀ b : List Byte, b.length < 4 → parse b = .error (.truncatedInput, 0#8)) ∧
  (∀ (b0 b1 b2 b3 : Byte) (more : List Byte), b0 ≠ 0x10#8 →
    parse (b0 :: b1 :: b2 :: b3 :: more) = .error (.unsupportedFormat, b0)) ∧
  (∀ (b1 b2 b3 : Byte) (more : List Byte),
    ∃ l : BitVec 24, l.toNat = b1.toNat + 256 * b2.toNat + 65536 * b3.toNat ∧
      parse (0x10#8 :: b1 :: b2 :: b3 :: more) = .ok (l, 0x10#8))

/-- R91: serialize emits LE32(n << 8 | 0x10); from 2^24 on REJECT raises LengthOverflow and TRUNCATE keeps n mod 2^24. -/
def Obligations.SerializeEmitsHeaderOrOverflows : Prop :=
  (∀ (m : LenOverflowMode) (n : Word), n.toNat < 2 ^ 24 →
    serialize m n = .ok (le32 (BitVec.ofNat 32 (n.toNat * 256 + 16)))) ∧
  (∀ n : Word, 2 ^ 24 ≤ n.toNat →
    serialize .reject n = .error (.lengthOverflow, 0#8) ∧
      serialize .truncate n = .ok (le32 (BitVec.ofNat 32 (n.toNat % 2 ^ 24 * 256 + 16))))

/-- R95: the header round trip in both modes, and a serialized header's byte 0. -/
def Obligations.ParseOfSerializeGivesLength : Prop :=
  (∀ (m : LenOverflowMode) (n : Word), n.toNat < 2 ^ 24 →
    ∃ b l, serialize m n = .ok b ∧ parse b = .ok (l, 0x10#8) ∧ l.toNat = n.toNat) ∧
  (∀ n : Word, 2 ^ 24 ≤ n.toNat →
    ∃ b l, serialize .truncate n = .ok b ∧ parse b = .ok (l, 0x10#8) ∧ l.toNat = n.toNat % 2 ^ 24) ∧
  (∀ (m : LenOverflowMode) (n : Word) (b : List Byte), serialize m n = .ok b → b.head? = some 0x10#8)

/-! ## The register file and the host -/

/-- R24, R25, R141: the STATUS word of each of the four values, with the error code numbers. -/
def Obligations.StatusWordEncodesOutcome : Prop :=
  Status.word .idle = 0x00000000#32 ∧ Status.word .running = 0x00000001#32 ∧
  Status.word .succeeded = 0x00000002#32 ∧ Status.word (.failed .unsupportedFormat) = 0x00000014#32 ∧
  Status.word (.failed .truncatedInput) = 0x00000024#32 ∧
  Status.word (.failed .invalidBackReference) = 0x00000034#32 ∧
  Status.word (.failed .lengthOverflow) = 0x00000044#32

/-- R20, R23, R26, R61: while not BUSY a host read of each register returns its value, CTRL as OP << 1 and reserved words as 0,
and changes nothing but what the host got. What the host got is the model's own field rdata, assumption 7. -/
def Obligations.RegisterReadReturnsValueWhenIdle : Prop :=
  ∀ s : State, s.busy = false →
    State.move (.regRead .bits32 0x00) s = .next { s with rdata := (opBits s.op).setWidth 32 <<< 1 } ∧
    State.move (.regRead .bits32 0x04) s = .next { s with rdata := s.status.word } ∧
    State.move (.regRead .bits32 0x08) s = .next { s with rdata := s.inLen } ∧
    State.move (.regRead .bits32 0x0C) s = .next { s with rdata := s.outLen } ∧
    State.move (.regRead .bits32 0x10) s = .next { s with rdata := s.inPos } ∧
    State.move (.regRead .bits32 0x14) s = .next { s with rdata := s.hdr } ∧
    State.move (.regRead .bits32 0x18) s = .next { s with rdata := 0#32 } ∧
    State.move (.regRead .bits32 0x1C) s = .next { s with rdata := 0#32 }

/-- R41, R68: while BUSY, STATUS reads RUNNING, CTRL and IN_LEN read their values, OUT_LEN, IN_POS and HDR read as a free value,
a fresh one per read, and so does an OUT byte. The form of a fresh free value is the model's choice, assumption 3; the statement
holds whatever the value is. -/
def Obligations.ReadWhileBusyIsFreeValue : Prop :=
  ∀ s : State, s.busy = true →
    State.move (.regRead .bits32 0x00) s = .next { s with rdata := (opBits s.op).setWidth 32 <<< 1 } ∧
    State.move (.regRead .bits32 0x04) s = .next { s with rdata := 0x00000001#32 } ∧
    State.move (.regRead .bits32 0x08) s = .next { s with rdata := s.inLen } ∧
    (∀ off, off = 0x0C ∨ off = 0x10 ∨ off = 0x14 →
      State.move (.regRead .bits32 off) s =
        .next { s with rdata := Config.freeWord s.draws, draws := s.draws + 1 }) ∧
    (∀ off, off < s.cfg.outCap →
      State.move (.outRead off) s =
        .next { s with rdata := (Config.freeByte s.draws).setWidth 32, draws := s.draws + 1 })

/-- R22: a host write of w to CTRL is ignored while BUSY; otherwise OP takes w[2:1], and START = 1 issues the command OP. -/
def Obligations.ControlWriteSetsOpAndStarts : Prop :=
  ∀ (s : State) (w : Word),
    (s.busy = true → State.move (.regWrite .bits32 0x00 w) s = .next s) ∧
    (s.busy = false → w.getLsbD 0 = false →
      ∃ t, State.move (.regWrite .bits32 0x00 w) s = .next t ∧ (opBits t.op).toNat = w.toNat / 2 % 4 ∧
        t = { s with op := t.op }) ∧
    (s.busy = false → w.getLsbD 0 = true →
      ∃ i, decodeCommand w = .ok i ∧ State.move (.regWrite .bits32 0x00 w) s = exec i s ∧
        ∀ t, exec i s = .next t →
          (opBits t.op).toNat = w.toNat / 2 % 4 ∧ t.curOp = t.op ∧ t.n = s.inLen ∧ t.status = .running)

/-- R26, R27: IN_LEN takes the written value, unless BUSY; every write to STATUS, OUT_LEN, IN_POS, HDR and the reserved words is
ignored. -/
def Obligations.OnlyInLenTakesAWrite : Prop :=
  ∀ (s : State) (w : Word),
    (s.busy = false → State.move (.regWrite .bits32 0x08 w) s = .next { s with inLen := w }) ∧
    (s.busy = true → State.move (.regWrite .bits32 0x08 w) s = .next s) ∧
    (∀ off, off = 0x04 ∨ off = 0x0C ∨ off = 0x10 ∨ off = 0x14 ∨ off = 0x18 ∨ off = 0x1C →
      State.move (.regWrite .bits32 off w) s = .next s)

/-- R59: a register access that is not 32 bits wide, not aligned, or outside 0x00 to 0x1F is refused; every other read, and every
other write but one to CTRL (R22), has a next state. -/
def Obligations.RegisterAccessOutsideRulesIsRefused : Prop :=
  ∀ (s : State) (width : AccessWidth) (off : Nat) (w : Word),
    (width ≠ .bits32 ∨ off % 4 ≠ 0 ∨ 0x20 ≤ off →
      State.move (.regRead width off) s = .refused .badRegisterAccess ∧
        State.move (.regWrite width off w) s = .refused .badRegisterAccess) ∧
    (width = .bits32 → off % 4 = 0 → off < 0x20 →
      (∃ t, State.move (.regRead width off) s = .next t) ∧
        (off ≠ 0x00 → ∃ t, State.move (.regWrite width off w) s = .next t))

/-- R60: while not BUSY the host writes and reads any byte of either window; a byte written is read back, every other byte of
both windows and every register stays. That OUT takes and keeps host writes is the model's reading, assumption 12. -/
def Obligations.WindowWriteIsReadBackWhenIdle : Prop :=
  ∀ (s : State) (a : Nat) (v : Byte), s.busy = false →
    (a < s.cfg.inCap →
      ∃ t, State.move (.inWrite a v) s = .next t ∧
        State.move (.inRead a) t = .next { t with rdata := v.setWidth 32 } ∧
        (∀ k, k ≠ a → t.inByte k = s.inByte k) ∧ t = { s with inMem := t.inMem }) ∧
    (a < s.cfg.outCap →
      ∃ t, State.move (.outWrite a v) s = .next t ∧
        State.move (.outRead a) t = .next { t with rdata := v.setWidth 32 } ∧
        (∀ k, k ≠ a → t.outByte k = s.outByte k) ∧ t = { s with outMem := t.outMem })

/-- R50, R66: a window write while BUSY has no model step, and an offset at or beyond the capacity names no byte. The refusal
and the fault are the model's, assumptions 13 and 15. -/
def Obligations.WindowAccessOutsideRulesStops : Prop :=
  ∀ (s : State) (a : Nat) (v : Byte),
    (s.busy = true → a < s.cfg.inCap → State.move (.inWrite a v) s = .refused .windowWriteWhileBusy) ∧
    (s.busy = true → a < s.cfg.outCap → State.move (.outWrite a v) s = .refused .windowWriteWhileBusy) ∧
    (s.cfg.inCap ≤ a → State.move (.inRead a) s = .fault (.hostWindowOffset .inWindow) ∧
      State.move (.inWrite a v) s = .fault (.hostWindowOffset .inWindow)) ∧
    (s.cfg.outCap ≤ a → State.move (.outRead a) s = .fault (.hostWindowOffset .outWindow) ∧
      State.move (.outWrite a v) s = .fault (.hostWindowOffset .outWindow))

/-- R44: the values the spec gives for reset; both windows hold contents nothing is known of. The form of unspecified contents
is the model's, assumption 4; nothing is said of the registers of assumption 1. -/
def Obligations.ResetStateHoldsTabledValues : Prop :=
  State.reset.op = .decode ∧ State.reset.status.word = 0#32 ∧ State.reset.inLen = 0#32 ∧
  State.reset.outLen = 0#32 ∧ State.reset.inPos = 0#32 ∧ State.reset.hdr = 0#32 ∧
  State.reset.phase = .idle ∧ State.reset.curOp = .decode ∧ State.reset.n = 0#32 ∧
  State.reset.ipos = 0#32 ∧ State.reset.estart = 0#32 ∧ State.reset.olen = 0#32 ∧
  (∀ k, State.reset.inByte k = Config.freeInByte State.reset.inEpoch k) ∧
  (∀ k, State.reset.outByte k = Config.freeOutByte State.reset.outEpoch k)

/-- R171, R172: a reset at any time, running or not, gives the reset values, reports nothing of an abandoned operation, and
leaves new unspecified contents in both windows. That the parameters stay and the form of unspecified contents are the model's,
assumptions 4 and 17. -/
def Obligations.ResetEventGivesResetValues : Prop :=
  ∀ s : State, ∃ t, State.move .reset s = .next t ∧
    t.op = .decode ∧ t.status = .idle ∧ t.inLen = 0#32 ∧ t.outLen = 0#32 ∧ t.inPos = 0#32 ∧ t.hdr = 0#32 ∧
    t.phase = .idle ∧ t.curOp = .decode ∧ t.n = 0#32 ∧ t.ipos = 0#32 ∧ t.estart = 0#32 ∧ t.olen = 0#32 ∧
    t.result = none ∧ t.cfg = s.cfg ∧
    (∀ k, t.inByte k = Config.freeInByte (s.inEpoch + 1) k) ∧
    (∀ k, t.outByte k = Config.freeOutByte (s.outEpoch + 1) k)

/-! ## The four commands -/

/-- R43: each command, issued while not BUSY on a launch that keeps the host's duty (R54, R55), completes by starting its
operation: CUR_OP and N are latched, STATUS is RUNNING, the result registers, OLEN, IPOS and ESTART are cleared, and PHASE is
the operation's first; nothing else changes. That the command's meaning is the start alone is the model's choice of level,
assumption 18. -/
def Obligations.CommandStartsItsOperation : Prop :=
  ∀ (s : State) (i : Instr) (op : Op) (ph : Phase),
    (i = .decode ∧ op = .decode ∧ ph = .dHeader) ∨ (i = .encode ∧ op = .encode ∧ ph = .eHeader) ∨
      (i = .hdrParse ∧ op = .hdrParse ∧ ph = .hParse) ∨ (i = .hdrSerialize ∧ op = .hdrSerialize ∧ ph = .hSer) →
    s.busy = false → inScope s.cfg = true → (op ≠ .hdrSerialize → s.inLen.toNat ≤ s.cfg.inCap) →
    exec i s = .next { s with
      op := op, curOp := op, n := s.inLen, status := .running, outLen := 0#32, inPos := 0#32, hdr := 0#32,
      olen := 0#32, ipos := 0#32, estart := 0#32, phase := ph }

/-- R22, R179: a command issued while BUSY changes nothing at all. -/
def Obligations.CommandWhileBusyIsLost : Prop :=
  ∀ (s : State) (i : Instr), i = .decode ∨ i = .encode ∨ i = .hdrParse ∨ i = .hdrSerialize →
    s.busy = true → exec i s = .next s

/-- R55: a command with IN_LEN > P_IN_CAP, other than HDR_SERIALIZE, is refused, and so is every command of an instance that
breaks R54; and a running state of such a launch has no engine step. The names of the refusals and the refusal of a running
state are the model's, assumptions 11 and 26. -/
def Obligations.BrokenLaunchIsRefused : Prop :=
  ∀ s : State,
    (s.busy = false → inScope s.cfg = true → s.cfg.inCap < s.inLen.toNat →
      ∀ i, i = .decode ∨ i = .encode ∨ i = .hdrParse → exec i s = .refused .inLenOverCapacity) ∧
    (s.busy = false → inScope s.cfg = false →
      ∀ i, i = .decode ∨ i = .encode ∨ i = .hdrParse ∨ i = .hdrSerialize → exec i s = .refused .parametersOutOfScope) ∧
    (s.phase ≠ .idle → inScope s.cfg = false → s.engineStep = .refused .parametersOutOfScope) ∧
    (s.phase ≠ .idle → inScope s.cfg = true → s.curOp ≠ .hdrSerialize → s.cfg.inCap < s.n.toNat →
      s.engineStep = .refused .inLenOverCapacity)

/-- R54: an instance is in scope exactly if its capacities meet the four items. -/
def Obligations.InstanceScopeIsTheCapacityConstraint : Prop :=
  ∀ c : Config, inScope c = true ↔
    4 ≤ c.inCap ∧ 16777215 ≤ c.outCap ∧ c.outCap ≤ 2 ^ 32 - 1 ∧
      (c.lenOverflow = .reject → min c.inCap (2 ^ 24 - 1) + (min c.inCap (2 ^ 24 - 1) + 7) / 8 + 4 ≤ c.outCap) ∧
      (c.lenOverflow = .truncate → c.inCap + (c.inCap + 7) / 8 + 4 ≤ c.outCap)

/-- R92: HDR_PARSE, from its command to its result in one engine step: the header word in HDR and success if byte 0 is 0x10,
UnsupportedFormat with the word still in HDR if not, TruncatedInput with HDR 0 below four bytes; the IN window is only read.
Error positions are 0 in every state by assumption 19. -/
def Obligations.HdrParseReportsTheHeader : Prop :=
  ∀ s : State, s.busy = false → inScope s.cfg = true → s.inLen.toNat ≤ s.cfg.inCap →
    ∃ t u, exec .hdrParse s = .next t ∧ t.engineStep = .next u ∧ EngineFrame t u ∧
      (s.inLen.toNat < 4 → FailedWith .truncatedInput 0#32 0#32 u) ∧
      (4 ≤ s.inLen.toNat → s.inByte 0 ≠ 0x10#8 →
        FailedWith .unsupportedFormat 0#32 (fromLE32 (s.inByte 0) (s.inByte 1) (s.inByte 2) (s.inByte 3)) u) ∧
      (4 ≤ s.inLen.toNat → s.inByte 0 = 0x10#8 →
        SucceededWith 0#32 4#32 (fromLE32 (s.inByte 0) (s.inByte 1) (s.inByte 2) (s.inByte 3)) u)

/-- R93: HDR_SERIALIZE, from its command to its result in one engine step: the four header bytes in OUT[0..3] and OUT_LEN 4, or
LengthOverflow under REJECT from 2^24 on. Error positions are 0 in every state by assumption 19. -/
def Obligations.HdrSerializeWritesTheHeader : Prop :=
  ∀ s : State, s.busy = false → inScope s.cfg = true →
    ∃ t u, exec .hdrSerialize s = .next t ∧ t.engineStep = .next u ∧ EngineFrame t u ∧
      (2 ^ 24 ≤ s.inLen.toNat → s.cfg.lenOverflow = .reject → FailedWith .lengthOverflow 0#32 0#32 u) ∧
      (s.inLen.toNat < 2 ^ 24 ∨ s.cfg.lenOverflow = .truncate →
        ∃ word : Word, word.toNat = s.inLen.toNat % 2 ^ 24 * 256 + 16 ∧
          SucceededWith 4#32 0#32 word u ∧ u.outBytes = le32 word)

/-- R101, R121, R182: DECODE, from its command: the engine ends within N + L + 2 micro-steps with the result, the output bytes
or the error with its element start, that R101's loop gives for the input bytes alone. -/
def Obligations.DecodeRunsToTheDefinedResult : Prop :=
  ∀ s : State, s.busy = false → inScope s.cfg = true → s.inLen.toNat ≤ s.cfg.inCap →
    ∃ t u, exec .decode s = .next t ∧
      engineRun (s.inLen.toNat + declaredLength (s.inBytes s.inLen.toNat) + 2) t = .next u ∧
      u.phase = .idle ∧ u.result = some (decodeBytes (s.inBytes s.inLen.toNat))

/-- R131, R136, R182: ENCODE, from its command: if the length is accepted the engine ends after exactly 2 + ceil(N / 8) + N
micro-steps, not before, with the stream R131 gives; if it is not, LengthOverflow after one. -/
def Obligations.EncodeRunsToTheDefinedResult : Prop :=
  ∀ s : State, s.busy = false → inScope s.cfg = true → s.inLen.toNat ≤ s.cfg.inCap →
    ∃ t, exec .encode s = .next t ∧
      (s.inLen.toNat < 2 ^ 24 ∨ s.cfg.lenOverflow = .truncate →
        ∃ u v, engineRun (1 + (s.inLen.toNat + 7) / 8 + s.inLen.toNat) t = .next u ∧ u.busy = true ∧
          u.engineStep = .next v ∧ v.phase = .idle ∧
          v.result = some (encodeBytes s.cfg.lenOverflow (s.inBytes s.inLen.toNat))) ∧
      (2 ^ 24 ≤ s.inLen.toNat → s.cfg.lenOverflow = .reject →
        ∃ v, t.engineStep = .next v ∧ FailedWith .lengthOverflow 0#32 0#32 v)

/-- R42: two launches with the same P_LEN_OVERFLOW_MODE, operation, IN_LEN and input bytes below it give the same result after the
same number of steps, whatever else the two states and their instances hold. -/
def Obligations.ResultDependsOnlyOnTheInput : Prop :=
  ∀ (s₁ s₂ t₁ t₂ u₁ u₂ : State) (i : Instr) (k : Nat),
    i = .decode ∨ i = .encode ∨ i = .hdrParse ∨ i = .hdrSerialize →
    s₁.busy = false → s₂.busy = false → s₁.cfg.lenOverflow = s₂.cfg.lenOverflow → s₁.inLen = s₂.inLen →
    (∀ j, j < s₁.inLen.toNat → s₁.inByte j = s₂.inByte j) →
    exec i s₁ = .next t₁ → exec i s₂ = .next t₂ →
    engineRun k t₁ = .next u₁ → engineRun k t₂ = .next u₂ →
    u₁.result = u₂.result

/-! ## The stream elements -/

/-- R102: HEADER. Four bytes and the right tag: IPOS 4, HDR the word, L = LEN, and D_READ_FLAG next. A tag that is not 0x10:
UnsupportedFormat with the word in HDR. Fewer than four bytes: TruncatedInput. Every end has element start 0. Error positions
are 0 in every state by assumption 19, and the info is read from HDR by assumption 21. -/
def Obligations.HeaderElementLatchesLength : Prop :=
  ∀ (s : State) (len : BitVec 24) (tag : Byte),
    (4 ≤ s.n.toNat → tag = 0x10#8 →
      exec (.header len tag) s = .next { s with
        estart := 0#32, ipos := 4#32, hdr := len ++ tag, l := len, phase := .dReadFlag }) ∧
    (4 ≤ s.n.toNat → tag ≠ 0x10#8 →
      ∃ t, exec (.header len tag) s = .next t ∧ FailedWith .unsupportedFormat 0#32 (len ++ tag) t ∧
        t.result = some (.err .unsupportedFormat tag 0 (len ++ tag))) ∧
    (s.n.toNat < 4 → ∃ t, exec (.header len tag) s = .next t ∧ FailedWith .truncatedInput 0#32 s.hdr t)

/-- R104: FLAG. With input left, FLAGS takes the byte, IPOS advances by one, BIT is 0 and a token follows; otherwise
TruncatedInput at IPOS. -/
def Obligations.FlagElementBeginsGroup : Prop :=
  ∀ (s : State) (f : Byte),
    (s.ipos.toNat < s.n.toNat →
      exec (.flag f) s = .next { s with
        estart := s.ipos, flags := f, ipos := s.ipos + 1, bit := 0#4, phase := .dToken }) ∧
    (s.n.toNat ≤ s.ipos.toNat →
      ∃ t, exec (.flag f) s = .next t ∧ FailedWith .truncatedInput s.ipos s.hdr t)

/-- R106: LIT. With input left and OLEN < L, as where a token starts, the byte stands at OUT[OLEN], OLEN and IPOS advance by one,
and the output bytes so far stay; otherwise TruncatedInput at IPOS. -/
def Obligations.LiteralElementAppendsByte : Prop :=
  ∀ (s : State) (v : Byte),
    (s.ipos.toNat < s.n.toNat → s.olen.toNat < s.l.toNat → inScope s.cfg = true → s.outKnown s.olen.toNat →
      ∃ t, exec (.lit v) s = .next t ∧ t.estart = s.ipos ∧ t.ipos = s.ipos + 1 ∧ t.olen = s.olen + 1 ∧
        t.outByte s.olen.toNat = v ∧ (∀ k, k < s.olen.toNat → t.outByte k = s.outByte k)) ∧
    (s.n.toNat ≤ s.ipos.toNat →
      ∃ t, exec (.lit v) s = .next t ∧ FailedWith .truncatedInput s.ipos s.hdr t)


/-- R114, R115, R116: after a token FLAGS has shifted and BIT counted; if OLEN reaches L decoding is Done with OUT_LEN = L,
IN_POS = IPOS and the header word; else the group ends after its eighth token; else the next token follows. Both kinds of token:
a literal, and the last copied byte of a back-reference. -/
def Obligations.TokenEndsDecodingGroupOrNeither : Prop :=
  ∀ s : State, inScope s.cfg = true → s.olen.toNat < s.l.toNat →
    (∀ v, s.ipos.toNat < s.n.toNat →
      ∃ t, exec (.lit v) s = .next t ∧ t.flags = s.flags <<< 1 ∧ t.bit = s.bit + 1 ∧
        (s.olen.toNat + 1 = s.l.toNat → SucceededWith (s.l.setWidth 32) (s.ipos + 1) s.hdr t) ∧
        (s.olen.toNat + 1 ≠ s.l.toNat → s.bit = 7#4 → t.phase = .dReadFlag ∧ t.status = s.status) ∧
        (s.olen.toNat + 1 ≠ s.l.toNat → s.bit ≠ 7#4 → t.phase = .dToken ∧ t.status = s.status)) ∧
    (s.phase = .dCopy → launchRefusal s.cfg s.curOp s.n = none → s.crem = 1#5 →
      ∃ t, s.engineStep = .next t ∧ t.flags = s.flags <<< 1 ∧ t.bit = s.bit + 1 ∧
        (s.olen.toNat + 1 = s.l.toNat → SucceededWith (s.l.setWidth 32) s.ipos s.hdr t) ∧
        (s.olen.toNat + 1 ≠ s.l.toNat → s.bit = 7#4 → t.phase = .dReadFlag ∧ t.status = s.status) ∧
        (s.olen.toNat + 1 ≠ s.l.toNat → s.bit ≠ 7#4 → t.phase = .dToken ∧ t.status = s.status))


/-- R107 to R110: BREF with both bytes and a source within the output: IPOS advances by two, and the copy is set up from
OLEN − disp − 1 for min(tlen, L − OLEN) bytes, on the bulk path exactly if the source range ends before OLEN; nothing is
appended yet. -/
def Obligations.BackReferenceSetsUpCopy : Prop :=
  ∀ (s : State) (tlen : BitVec 5) (disp : BitVec 12),
    s.ipos.toNat + 2 ≤ s.n.toNat → disp.toNat + 1 ≤ s.olen.toNat → s.olen.toNat < s.l.toNat →
    ∃ t, exec (.bref tlen disp) s = .next t ∧
      t.estart = s.ipos ∧ t.ipos = s.ipos + 2 ∧
      t.cptr.toNat = s.olen.toNat - (disp.toNat + 1) ∧
      t.crem.toNat = min tlen.toNat (s.l.toNat - s.olen.toNat) ∧
      (t.cbulk = true ↔ t.cptr.toNat + t.crem.toNat < s.olen.toNat) ∧
      t.phase = .dCopy ∧
      t = { s with estart := t.estart, ipos := t.ipos, cptr := t.cptr, crem := t.crem, cbulk := t.cbulk,
                   phase := t.phase }

/-- R108, R144, R149: a BREF with both bytes whose source lies before the output's start is InvalidBackReference at the BREF's
first byte; with fewer than two bytes left it is TruncatedInput there, whatever its displacement. -/
def Obligations.BackReferenceErrorsInOrder : Prop :=
  ∀ (s : State) (tlen : BitVec 5) (disp : BitVec 12),
    (s.n.toNat < s.ipos.toNat + 2 →
      ∃ t, exec (.bref tlen disp) s = .next t ∧ FailedWith .truncatedInput s.ipos s.hdr t) ∧
    (s.ipos.toNat + 2 ≤ s.n.toNat → s.olen.toNat < disp.toNat + 1 →
      ∃ t, exec (.bref tlen disp) s = .next t ∧ FailedWith .invalidBackReference s.ipos s.hdr t)

/-- R120: one COPY step appends the byte at OUT[CPTR], advances OLEN and CPTR and counts CREM down; with CREM still above 0 the
copy goes on. -/
def Obligations.CopyStepMovesOneByte : Prop :=
  ∀ s : State, s.phase = .dCopy → launchRefusal s.cfg s.curOp s.n = none → s.olen.toNat < s.l.toNat →
    2 ≤ s.crem.toNat →
    ∃ t, s.engineStep = .next t ∧ t.olen = s.olen + 1 ∧ t.cptr = s.cptr + 1 ∧ t.crem = s.crem - 1 ∧
      t.phase = .dCopy ∧ t.outByte s.olen.toNat = s.outByte s.cptr.toNat ∧
      (∀ k, k ≠ s.olen.toNat → t.outByte k = s.outByte k) ∧
      t = { s with olen := t.olen, cptr := t.cptr, crem := t.crem, outMem := t.outMem }


/-- R112, R113, R176: from the set-up of a back-reference on, the copy's CREM steps write OUT[o + k] = B[ptr + k mod d] with
d = o − ptr, on either path, and leave every byte below o alone. -/
def Obligations.CopyRepeatsThePeriod : Prop :=
  ∀ s : State, Inv s → s.phase = .dCopy →
    ∃ t, engineRun s.crem.toNat s = .next t ∧
      t.olen.toNat = s.olen.toNat + s.crem.toNat ∧ t.phase ≠ .dCopy ∧
      (∀ k, k < s.crem.toNat →
        t.outByte (s.olen.toNat + k) = s.outByte (s.cptr.toNat + k % (s.olen.toNat - s.cptr.toNat))) ∧
      (∀ k, k < s.olen.toNat → t.outByte k = s.outByte k)

/-- R110 to R113: on output bytes, the copy by the selected path, the byte-by-byte copy and the closed form agree for every
source within the output. -/
def Obligations.CopyResultIndependentOfPath : Prop :=
  ∀ (out : List Byte) (ptr cnt : Nat), ptr < out.length →
    copyBytes out ptr cnt = closedCopy out ptr cnt ∧ bytewiseCopy out ptr cnt = closedCopy out ptr cnt ∧
      (closedCopy out ptr cnt).length = out.length + cnt

/-- R103: at D_READ_FLAG with OLEN = L the operation succeeds with IN_POS = IPOS and OUT_LEN = L, no flag byte is read, and the
output stays. -/
def Obligations.TerminalCheckReadsNoFlagByte : Prop :=
  ∀ s : State, s.phase = .dReadFlag → launchRefusal s.cfg s.curOp s.n = none → s.olen.toNat = s.l.toNat →
    ∃ t, s.engineStep = .next t ∧ SucceededWith (s.l.setWidth 32) s.ipos s.hdr t ∧
      t.ipos = s.ipos ∧ t.flags = s.flags ∧
      (s.outKnown s.olen.toNat → ∀ k, k < s.l.toNat → t.outByte k = s.outByte k)


/-- R117, R51: an element whose bytes do not all stand below N ends the step with TruncatedInput at its element start, and no byte
at or beyond N is among the bytes an element is read from. -/
def Obligations.ShortElementRaisesTruncatedInput : Prop :=
  ∀ (s : State) (e : Element), s.nextElement = some e → launchRefusal s.cfg s.curOp s.n = none →
    (s.n.toNat < (s.elementOffset e).toNat + elementBytes e →
      ∃ t, s.engineStep = .next t ∧ FailedWith .truncatedInput (s.elementOffset e) s.hdr t ∧ EngineFrame s t) ∧
    (∀ j b, (s.available e)[j]? = some b →
      (s.elementOffset e).toNat + j < s.n.toNat ∧ b = s.inByte ((s.elementOffset e).toNat + j))

/-! ## Errors -/

/-- R146, R14: raise gives STATUS the code, OUT_LEN 0, IN_POS the element start, keeps HDR, leaves the engine idle and OUT
unspecified; the result holds the code and the info, which is the tag for UnsupportedFormat and 0 otherwise. The form of
unspecified contents and of the info is the model's, assumptions 4 and 21. -/
def Obligations.RaiseEndsTheOperation : Prop :=
  ∀ (s : State) (e : ErrorCode),
    FailedWith e s.estart s.hdr (State.raise e s) ∧
      (State.raise e s).result =
        some (.err e (if e = .unsupportedFormat then headerTag s.hdr else 0#8) s.estart.toNat s.hdr) ∧
      (State.raise e s).engineStep = .next (State.raise e s)

/-! ## Frames -/

/-- The frame of the stream elements: parameters, OP, IN_LEN, CUR_OP, N, the IN window and the host's side never change; HEADER
leaves the output and group state; FLAG leaves HDR, L, the output and the copy state; LIT leaves HDR, L and the copy state; BREF
leaves HDR, L, FLAGS, BIT, OLEN; and HEADER, FLAG and BREF that raise no error store nothing. -/
def Obligations.StreamElementFrame : Prop :=
  ∀ s t : State,
    (∀ len tag, exec (.header len tag) s = .next t →
      EngineFrame s t ∧ t.olen = s.olen ∧ t.flags = s.flags ∧ t.bit = s.bit ∧ t.cptr = s.cptr ∧
        t.crem = s.crem ∧ t.cbulk = s.cbulk ∧ t.gcnt = s.gcnt ∧
        (t.phase = .dReadFlag → t.status = s.status ∧ t.outLen = s.outLen ∧ t.inPos = s.inPos ∧
          ∀ k, t.outByte k = s.outByte k)) ∧
    (∀ f, exec (.flag f) s = .next t →
      EngineFrame s t ∧ t.hdr = s.hdr ∧ t.l = s.l ∧ t.olen = s.olen ∧ t.cptr = s.cptr ∧ t.crem = s.crem ∧
        t.cbulk = s.cbulk ∧ t.gcnt = s.gcnt ∧
        (t.phase = .dToken → t.status = s.status ∧ t.outLen = s.outLen ∧ t.inPos = s.inPos ∧
          ∀ k, t.outByte k = s.outByte k)) ∧
    (∀ v, exec (.lit v) s = .next t →
      EngineFrame s t ∧ t.hdr = s.hdr ∧ t.l = s.l ∧ t.cptr = s.cptr ∧ t.crem = s.crem ∧ t.cbulk = s.cbulk ∧
        t.gcnt = s.gcnt ∧
        (t.phase ≠ .idle → t.status = s.status ∧ t.outLen = s.outLen ∧ t.inPos = s.inPos ∧
          ∀ k, k ≠ s.olen.toNat → t.outByte k = s.outByte k)) ∧
    (∀ tlen disp, exec (.bref tlen disp) s = .next t →
      EngineFrame s t ∧ t.hdr = s.hdr ∧ t.l = s.l ∧ t.flags = s.flags ∧ t.bit = s.bit ∧ t.olen = s.olen ∧
        t.gcnt = s.gcnt ∧
        (t.phase = .dCopy → t.status = s.status ∧ t.outLen = s.outLen ∧ t.inPos = s.inPos ∧
          ∀ k, t.outByte k = s.outByte k))

/-- The frame of the commands: they store nothing, and leave IN_LEN, both windows and every internal element that START does not
initialise (R43) unchanged. -/
def Obligations.CommandFrame : Prop :=
  ∀ (s t : State) (i : Instr), i = .decode ∨ i = .encode ∨ i = .hdrParse ∨ i = .hdrSerialize →
    exec i s = .next t →
      t.cfg = s.cfg ∧ t.inLen = s.inLen ∧ t.l = s.l ∧ t.flags = s.flags ∧ t.bit = s.bit ∧ t.cptr = s.cptr ∧
        t.crem = s.crem ∧ t.cbulk = s.cbulk ∧ t.gcnt = s.gcnt ∧ t.draws = s.draws ∧ t.rdata = s.rdata ∧
        t.agenda = s.agenda ∧ (∀ k, t.inByte k = s.inByte k) ∧ (∀ k, t.outByte k = s.outByte k)

/-- R27, R51: no engine step, in any phase, writes the IN window, IN_LEN, OP, what START latched, or the parameters. -/
def Obligations.EngineNeverWritesItsInput : Prop :=
  ∀ s t : State, s.engineStep = .next t → EngineFrame s t ∧ ∀ k, t.inByte k = s.inByte k

/-- R52, R38: the engine's output is append-only: a step that leaves the operation running changes no OUT byte below OLEN, and
OLEN does not fall; a step that ends it with success leaves every OUT byte below OUT_LEN. In H_SER and E_HEADER OLEN is 0. -/
def Obligations.OutputIsAppendOnly : Prop :=
  ∀ s t : State, Inv s → s.phase ≠ .idle → s.phase ≠ .hSer → s.phase ≠ .eHeader → s.engineStep = .next t →
    (t.phase ≠ .idle →
      s.olen.toNat ≤ t.olen.toNat ∧ t.olen.toNat ≤ s.olen.toNat + 1 ∧
        ∀ k, k ≠ s.olen.toNat → t.outByte k = s.outByte k) ∧
    (t.status = .succeeded →
      ∀ k, k < t.outLen.toNat → k ≠ s.olen.toNat → t.outByte k = s.outByte k)

/-! ## The encoder's micro-steps -/

/-- R136: E_HEADER writes the header and goes to E_FLAG; E_FLAG finishes at the end of the input, or writes the flag byte 0x00 and
begins a group of min(8, N − IPOS); E_LIT copies one input byte and counts the group down. -/
def Obligations.EncoderStepsEmitGroups : Prop :=
  ∀ s : State, Inv s →
    (s.phase = .eHeader → s.n.toNat < 2 ^ 24 ∨ s.cfg.lenOverflow = .truncate →
      ∃ t, s.engineStep = .next t ∧ t.hdr.toNat = s.n.toNat % 2 ^ 24 * 256 + 16 ∧ t.olen = 4#32 ∧
        t.phase = .eFlag ∧ (∀ k b, (le32 t.hdr)[k]? = some b → t.outByte k = b)) ∧
    (s.phase = .eHeader → 2 ^ 24 ≤ s.n.toNat → s.cfg.lenOverflow = .reject →
      ∃ t, s.engineStep = .next t ∧ FailedWith .lengthOverflow 0#32 s.hdr t) ∧
    (s.phase = .eFlag → s.ipos = s.n →
      ∃ t, s.engineStep = .next t ∧ SucceededWith s.olen s.n s.hdr t) ∧
    (s.phase = .eFlag → s.ipos ≠ s.n →
      ∃ t, s.engineStep = .next t ∧ t.outByte s.olen.toNat = 0x00#8 ∧ t.olen = s.olen + 1 ∧ t.ipos = s.ipos ∧
        t.gcnt.toNat = min 8 (s.n.toNat - s.ipos.toNat) ∧ t.phase = .eLit) ∧
    (s.phase = .eLit →
      ∃ t, s.engineStep = .next t ∧ t.outByte s.olen.toNat = s.inByte s.ipos.toNat ∧ t.olen = s.olen + 1 ∧
        t.ipos = s.ipos + 1 ∧ t.gcnt = s.gcnt - 1 ∧
        (s.gcnt = 1#4 → t.phase = .eFlag) ∧ (s.gcnt ≠ 1#4 → t.phase = .eLit))


/-! ## Steps and runs -/

/-- A step runs the decoded instruction: the element whose turn it is, read from the bytes at its offset, is run by exec on the
same state; a command on the agenda is run by exec on the state whose agenda has moved on. The agenda is the model's own,
assumption 8. -/
def Obligations.StepRunsTheDecodedInstruction : Prop :=
  (∀ (s : State) (e : Element) (i : Instr) (rest : List Byte),
    s.agenda = [] → s.nextElement = some e → launchRefusal s.cfg s.curOp s.n = none →
    decodeElement e (s.available e) = .ok (i, rest) → step s = exec i s) ∧
  (∀ (s : State) (w : Word) (i : Instr) (rest : List Move),
    s.agenda = .regWrite .bits32 0x00 w :: rest → decodeCommand w = .ok i →
    step s = exec i { s with agenda := rest })

/-- What a step is around exec: with an empty agenda the engine's own step, else the first move of the agenda on the state whose
agenda has moved on; and an idle engine's step changes nothing. The agenda is the model's own, assumption 8. -/
def Obligations.StepTakesTheNextMove : Prop :=
  (∀ s : State, s.agenda = [] → step s = s.engineStep) ∧
  (∀ (s : State) (m : Move) (rest : List Move), s.agenda = m :: rest →
    step s = State.move m { s with agenda := rest }) ∧
  (∀ s : State, s.agenda = [] → s.phase = .idle → step s = .next s)

/-- The invariant holds right after reset. -/
def Obligations.ResetMeetsTheInvariant : Prop := Inv State.reset

/-- The invariant is kept by every step, of the engine, the host and the platform, from every state that meets it. The
invariant's clause on a running launch rests on assumption 26. -/
def Obligations.EveryStepKeepsTheInvariant : Prop :=
  ∀ s t : State, Inv s → step s = .next t → Inv t

/-- R183, R54: the engine has no stuck state of its own: from every invariant state it takes a step, never a fault and never a
refusal. -/
def Obligations.EngineNeverStops : Prop :=
  ∀ s : State, Inv s → ∃ t, s.engineStep = .next t

/-! ## The codec -/

/-- R133: decoding what ENCODE makes of any input below 2^24 bytes gives that input back, and consumes every byte of the
stream. -/
def Obligations.DecodeOfEncodeGivesInput : Prop :=
  ∀ (m : LenOverflowMode) (x : List Byte), x.length < 2 ^ 24 →
    ∃ y word, encodeBytes m x = .ok y x.length word ∧ decodeBytes y = .ok x y.length word

/-- R132: a successful ENCODE of N bytes makes exactly N + ceil(N / 8) + 4. -/
def Obligations.EncodedSizeIsExact : Prop :=
  ∀ (m : LenOverflowMode) (x y : List Byte) (pos : Nat) (word : Word), encodeBytes m x = .ok y pos word →
    y.length = x.length + (x.length + 7) / 8 + 4 ∧ pos = x.length ∧ x.length < y.length

/-- R134: an input of 2^24 bytes or more is LengthOverflow under REJECT; under TRUNCATE it is encoded whole, behind a header of its
length modulo 2^24, and DECODE gives back only that many first bytes, with the rest as trailing bytes. -/
def Obligations.TruncatedLengthDecodesToFirstBytes : Prop :=
  ∀ x : List Byte, 2 ^ 24 ≤ x.length → x.length < 2 ^ 32 →
    encodeBytes .reject x = .err .lengthOverflow 0#8 0 0#32 ∧
    ∃ y word pos, encodeBytes .truncate x = .ok y x.length word ∧
      word.toNat = x.length % 2 ^ 24 * 256 + 16 ∧ y = le32 word ++ literalGroups 0 x ∧
      y.length = x.length + (x.length + 7) / 8 + 4 ∧
      decodeBytes y = .ok (x.take (x.length % 2 ^ 24)) pos word ∧ pos < y.length

/-- R118, R122: a successful DECODE gives exactly the declared length, consumes between 4 and all of its input, and depends only
on what it consumed: any bytes may follow. -/
def Obligations.DecodeDependsOnlyOnConsumedBytes : Prop :=
  ∀ (x out : List Byte) (pos : Nat) (word : Word), decodeBytes x = .ok out pos word →
    out.length = (headerLen word).toNat ∧ 4 ≤ pos ∧ pos ≤ x.length ∧
      ∀ more, decodeBytes (x.take pos ++ more) = .ok out pos word

/-- R94: an input of at least four bytes whose byte 0 is not 0x10 fails with UnsupportedFormat of that byte, in DECODE and in
parse, whatever its other bytes are. -/
def Obligations.WrongTagAlwaysFails : Prop :=
  ∀ (b0 b1 b2 b3 : Byte) (more : List Byte), b0 ≠ 0x10#8 →
    decodeBytes (b0 :: b1 :: b2 :: b3 :: more) = .err .unsupportedFormat b0 0 (fromLE32 b0 b1 b2 b3) ∧
      parse (b0 :: b1 :: b2 :: b3 :: more) = .error (.unsupportedFormat, b0)

/-! ## Several instances -/

/-- R163: a step of one instance leaves every other as it is, and steps of two instances may be taken in either order. A
platform as a list of states is the model's form, assumption 25. -/
def Obligations.InstancesStepIndependently : Prop :=
  ∀ (p q : Platform) (i j : Nat), i ≠ j → p.stepAt i = .next q →
    q.instances[j]? = p.instances[j]? ∧
      ∀ r, q.stepAt j = .next r → ∃ q', p.stepAt j = .next q' ∧ q'.stepAt i = .next r

/-! ## The listing -/

/-- R87: GROUP of up to eight LIT and BREF tokens emits the flag byte whose bit 8 − j is set exactly if token j, counted from 1,
is a BREF, then the tokens' bytes in order. -/
def Obligations.GroupEmitsFlagByteFirst : Prop :=
  ∀ (tokens : List ListingToken) (bytes : List Byte),
    (∀ t ∈ tokens, (∃ v, t = .lit v) ∨ ∃ len disp, t = .bref len disp) →
    assembleLine (.group tokens) = .ok bytes →
      ∃ f parts, bytes = f :: List.flatten parts ∧ tokens.length ≤ 8 ∧ tokens.mapM tokenBytes = .ok parts ∧
        ∀ j, j < 8 → (f.getLsbD (7 - j) = true ↔ ∃ len disp, tokens[j]? = some (.bref len disp))


/-- R89: the operands the listing assembler refuses, by name; a refused line emits nothing. Which name comes first is the
model's choice, assumption 27. -/
def Obligations.ListingRefusesOperandsByName : Prop :=
  (∀ len disp, len < 3 ∨ 18 < len → assembleLine (.bref len disp) = .error .brefLength) ∧
  (∀ len disp, 3 ≤ len → len ≤ 18 → 4095 < disp → assembleLine (.bref len disp) = .error .brefDisplacement) ∧
  (∀ l, 2 ^ 24 ≤ l → assembleLine (.hdr l) = .error .headerLength) ∧
  (∀ v, 255 < v → assembleLine (.lit v) = .error .byteRange ∧ assembleLine (.raw v) = .error .byteRange ∧
    assembleLine (.flag v) = .error .byteRange) ∧
  (∀ tokens : List ListingToken, 8 < (expandTokens tokens).length →
    assembleLine (.group tokens) = .error .groupSize) ∧
  (∀ line r, assembleLine line = .error r → assemble [line] = [])
end

