-- ==== Sys2Proof/Laws/Memory.lean ====
section
/-!
SUPPORT. The laws of window contents: a byte written is the byte read, other bytes stay, and every operation keeps the canonical
form and the capacity.
-/

namespace Sys2Proof.Machine

@[simp] theorem Memory.get?_nil (a : Nat) : Memory.get? [] a = none := rfl

@[simp] theorem Memory.wf_nil : Memory.wf [] := List.Pairwise.nil

@[simp] theorem Memory.below_nil (bound : Nat) : Memory.below [] bound = [] := rfl

/-- A byte written is the byte read. -/
theorem Memory.get?_set_self (m : Memory) (a : Nat) (v : Byte) : (m.set a v).get? a = some v := by
  induction m with
  | nil => simp [Memory.set, Memory.get?]
  | cons c m ih =>
    obtain ⟨b, w⟩ := c
    simp only [Memory.set]
    split
    · simp [Memory.get?]
    · split
      · simp [Memory.get?]
      · simp only [Memory.get?]
        rw [if_neg (by omega)]
        exact ih

/-- A write leaves every other offset alone. -/
theorem Memory.get?_set_other (m : Memory) (a k : Nat) (v : Byte) (h : k ≠ a) :
    (m.set a v).get? k = m.get? k := by
  induction m with
  | nil => simp [Memory.set, Memory.get?, h.symm]
  | cons c m ih =>
    obtain ⟨b, w⟩ := c
    simp only [Memory.set]
    split
    · simp [Memory.get?, h.symm]
    · split
      · rename_i hab
        subst hab
        simp [Memory.get?, h.symm]
      · simp only [Memory.get?, ih]

/-- Where a write's entries come from. -/
theorem Memory.mem_set {m : Memory} {a : Nat} {v : Byte} {c : Host.Cell} (h : c ∈ m.set a v) :
    c = (a, v) ∨ c ∈ m := by
  induction m with
  | nil => simpa [Memory.set] using h
  | cons d m ih =>
    obtain ⟨b, w⟩ := d
    simp only [Memory.set] at h
    split at h
    · simpa using h
    · split at h
      · simp only [List.mem_cons] at h ⊢
        tauto
      · simp only [List.mem_cons] at h ⊢
        rcases h with h | h
        · exact Or.inr (Or.inl h)
        · rcases ih h with h | h
          · exact Or.inl h
          · exact Or.inr (Or.inr h)

/-- A write keeps the canonical form. -/
theorem Memory.wf_set {m : Memory} (h : m.wf) (a : Nat) (v : Byte) : (m.set a v).wf := by
  induction m with
  | nil => simp [Memory.set, Memory.wf]
  | cons c m ih =>
    obtain ⟨b, w⟩ := c
    obtain ⟨hb, hm⟩ := List.pairwise_cons.mp h
    simp only [Memory.set]
    split
    · rename_i hab
      refine List.pairwise_cons.mpr ⟨fun c hc => ?_, h⟩
      rcases List.mem_cons.mp hc with rfl | hc
      · exact hab
      · have := hb c hc
        simp only at this ⊢
        omega
    · split
      · rename_i hab
        subst hab
        exact List.pairwise_cons.mpr ⟨fun c hc => hb c hc, hm⟩
      · refine List.pairwise_cons.mpr ⟨fun c hc => ?_, ih hm⟩
        rcases Memory.mem_set hc with rfl | hc
        · simp only
          omega
        · exact hb c hc

/-- Keeping the bytes below a bound keeps the canonical form. -/
theorem Memory.wf_below {m : Memory} (h : m.wf) (bound : Nat) : (m.below bound).wf :=
  List.Pairwise.filter _ h

/-- Keeping the bytes below a bound only removes entries. -/
theorem Memory.mem_below {m : Memory} {bound : Nat} {c : Host.Cell} (h : c ∈ m.below bound) : c ∈ m :=
  (List.mem_filter.mp h).1

/-- Below the bound nothing changes. -/
theorem Memory.get?_below_of_lt (m : Memory) {bound k : Nat} (h : k < bound) :
    (m.below bound).get? k = m.get? k := by
  induction m with
  | nil => rfl
  | cons c m ih =>
    obtain ⟨b, w⟩ := c
    simp only [Memory.below, List.filter_cons] at ih ⊢
    split
    · simp only [Memory.get?, ih]
    · rename_i hb
      have hb : ¬ b < bound := by simpa using hb
      simp only [Memory.get?]
      rw [if_neg (by omega)]
      exact ih

/-- At and above the bound nothing is known. -/
theorem Memory.get?_below_of_le (m : Memory) {bound k : Nat} (h : bound ≤ k) :
    (m.below bound).get? k = none := by
  induction m with
  | nil => rfl
  | cons c m ih =>
    obtain ⟨b, w⟩ := c
    simp only [Memory.below, List.filter_cons] at ih ⊢
    split
    · rename_i hb
      have hb : b < bound := by simpa using hb
      simp only [Memory.get?]
      rw [if_neg (by omega)]
      exact ih
    · exact ih

/-- Writing consecutive bytes keeps the canonical form. -/
theorem Memory.wf_setAll {m : Memory} (h : m.wf) (a : Nat) (vs : List Byte) : (m.setAll a vs).wf := by
  induction vs generalizing m a with
  | nil => exact h
  | cons v vs ih => exact ih (Memory.wf_set h a v) (a + 1)

/-- Where the entries of consecutive writes come from. -/
theorem Memory.mem_setAll {m : Memory} {a : Nat} {vs : List Byte} {c : Host.Cell} (h : c ∈ m.setAll a vs) :
    (a ≤ c.1 ∧ c.1 < a + vs.length) ∨ c ∈ m := by
  induction vs generalizing m a with
  | nil => exact Or.inr h
  | cons v vs ih =>
    simp only [List.length_cons]
    rcases ih h with ⟨h1, h2⟩ | h
    · exact Or.inl ⟨by omega, by omega⟩
    · rcases Memory.mem_set h with rfl | h
      · exact Or.inl ⟨by simp, by simp⟩
      · exact Or.inr h

/-- Outside the written range consecutive writes leave every offset alone. -/
theorem Memory.get?_setAll_other (m : Memory) (a k : Nat) (vs : List Byte) (h : k < a ∨ a + vs.length ≤ k) :
    (m.setAll a vs).get? k = m.get? k := by
  induction vs generalizing m a with
  | nil => rfl
  | cons v vs ih =>
    simp only [List.length_cons] at h
    simp only [Memory.setAll]
    rw [ih (m.set a v) (a + 1) (by omega), Memory.get?_set_other m a k v (by omega)]

/-- Inside the written range consecutive writes leave the bytes written. -/
theorem Memory.get?_setAll_self (m : Memory) (a k : Nat) (vs : List Byte) (h : k < vs.length) :
    (m.setAll a vs).get? (a + k) = some vs[k] := by
  induction vs generalizing m a k with
  | nil => simp at h
  | cons v vs ih =>
    simp only [Memory.setAll]
    cases k with
    | zero =>
      rw [Memory.get?_setAll_other _ _ _ _ (Or.inl (by omega))]
      simpa using Memory.get?_set_self m a v
    | succ k =>
      have := ih (m.set a v) (a + 1) k (by simpa using h)
      simpa [Nat.add_assoc, Nat.add_comm 1 k] using this

end Sys2Proof.Machine
end

