-- ==== Sys2Proof/Laws/State.lean ====
section
/-!
SUPPORT. What each shared update of the state does to each field: one lemma per field and update, true by definition, so that
no proof unfolds a record update.
-/

namespace Sys2Proof.Machine

/-! Appending a byte (R52). -/

@[simp] theorem State.emit_cfg (v : Byte) (s : State) :
    (State.emit v s).cfg = s.cfg := rfl

@[simp] theorem State.emit_op (v : Byte) (s : State) :
    (State.emit v s).op = s.op := rfl

@[simp] theorem State.emit_status (v : Byte) (s : State) :
    (State.emit v s).status = s.status := rfl

@[simp] theorem State.emit_inLen (v : Byte) (s : State) :
    (State.emit v s).inLen = s.inLen := rfl

@[simp] theorem State.emit_outLen (v : Byte) (s : State) :
    (State.emit v s).outLen = s.outLen := rfl

@[simp] theorem State.emit_inPos (v : Byte) (s : State) :
    (State.emit v s).inPos = s.inPos := rfl

@[simp] theorem State.emit_hdr (v : Byte) (s : State) :
    (State.emit v s).hdr = s.hdr := rfl

@[simp] theorem State.emit_phase (v : Byte) (s : State) :
    (State.emit v s).phase = s.phase := rfl

@[simp] theorem State.emit_curOp (v : Byte) (s : State) :
    (State.emit v s).curOp = s.curOp := rfl

@[simp] theorem State.emit_l (v : Byte) (s : State) :
    (State.emit v s).l = s.l := rfl

@[simp] theorem State.emit_n (v : Byte) (s : State) :
    (State.emit v s).n = s.n := rfl

@[simp] theorem State.emit_ipos (v : Byte) (s : State) :
    (State.emit v s).ipos = s.ipos := rfl

@[simp] theorem State.emit_estart (v : Byte) (s : State) :
    (State.emit v s).estart = s.estart := rfl

@[simp] theorem State.emit_olen (v : Byte) (s : State) :
    (State.emit v s).olen = s.olen + 1 := rfl

@[simp] theorem State.emit_flags (v : Byte) (s : State) :
    (State.emit v s).flags = s.flags := rfl

@[simp] theorem State.emit_bit (v : Byte) (s : State) :
    (State.emit v s).bit = s.bit := rfl

@[simp] theorem State.emit_cptr (v : Byte) (s : State) :
    (State.emit v s).cptr = s.cptr := rfl

@[simp] theorem State.emit_crem (v : Byte) (s : State) :
    (State.emit v s).crem = s.crem := rfl

@[simp] theorem State.emit_cbulk (v : Byte) (s : State) :
    (State.emit v s).cbulk = s.cbulk := rfl

@[simp] theorem State.emit_gcnt (v : Byte) (s : State) :
    (State.emit v s).gcnt = s.gcnt := rfl

@[simp] theorem State.emit_inMem (v : Byte) (s : State) :
    (State.emit v s).inMem = s.inMem := rfl

@[simp] theorem State.emit_outMem (v : Byte) (s : State) :
    (State.emit v s).outMem = s.outMem.set s.olen.toNat v := rfl

@[simp] theorem State.emit_inEpoch (v : Byte) (s : State) :
    (State.emit v s).inEpoch = s.inEpoch := rfl

@[simp] theorem State.emit_outEpoch (v : Byte) (s : State) :
    (State.emit v s).outEpoch = s.outEpoch := rfl

@[simp] theorem State.emit_draws (v : Byte) (s : State) :
    (State.emit v s).draws = s.draws := rfl

@[simp] theorem State.emit_rdata (v : Byte) (s : State) :
    (State.emit v s).rdata = s.rdata := rfl

@[simp] theorem State.emit_agenda (v : Byte) (s : State) :
    (State.emit v s).agenda = s.agenda := rfl

/-! Starting an operation (R43). -/

@[simp] theorem State.startOperation_cfg (o : Op) (s : State) :
    (State.startOperation o s).cfg = s.cfg := rfl

@[simp] theorem State.startOperation_op (o : Op) (s : State) :
    (State.startOperation o s).op = s.op := rfl

@[simp] theorem State.startOperation_status (o : Op) (s : State) :
    (State.startOperation o s).status = .running := rfl

@[simp] theorem State.startOperation_inLen (o : Op) (s : State) :
    (State.startOperation o s).inLen = s.inLen := rfl

@[simp] theorem State.startOperation_outLen (o : Op) (s : State) :
    (State.startOperation o s).outLen = 0#32 := rfl

@[simp] theorem State.startOperation_inPos (o : Op) (s : State) :
    (State.startOperation o s).inPos = 0#32 := rfl

@[simp] theorem State.startOperation_hdr (o : Op) (s : State) :
    (State.startOperation o s).hdr = 0#32 := rfl

@[simp] theorem State.startOperation_phase (o : Op) (s : State) :
    (State.startOperation o s).phase = startPhase o := rfl

@[simp] theorem State.startOperation_curOp (o : Op) (s : State) :
    (State.startOperation o s).curOp = o := rfl

@[simp] theorem State.startOperation_l (o : Op) (s : State) :
    (State.startOperation o s).l = s.l := rfl

@[simp] theorem State.startOperation_n (o : Op) (s : State) :
    (State.startOperation o s).n = s.inLen := rfl

@[simp] theorem State.startOperation_ipos (o : Op) (s : State) :
    (State.startOperation o s).ipos = 0#32 := rfl

@[simp] theorem State.startOperation_estart (o : Op) (s : State) :
    (State.startOperation o s).estart = 0#32 := rfl

@[simp] theorem State.startOperation_olen (o : Op) (s : State) :
    (State.startOperation o s).olen = 0#32 := rfl

@[simp] theorem State.startOperation_flags (o : Op) (s : State) :
    (State.startOperation o s).flags = s.flags := rfl

@[simp] theorem State.startOperation_bit (o : Op) (s : State) :
    (State.startOperation o s).bit = s.bit := rfl

@[simp] theorem State.startOperation_cptr (o : Op) (s : State) :
    (State.startOperation o s).cptr = s.cptr := rfl

@[simp] theorem State.startOperation_crem (o : Op) (s : State) :
    (State.startOperation o s).crem = s.crem := rfl

@[simp] theorem State.startOperation_cbulk (o : Op) (s : State) :
    (State.startOperation o s).cbulk = s.cbulk := rfl

@[simp] theorem State.startOperation_gcnt (o : Op) (s : State) :
    (State.startOperation o s).gcnt = s.gcnt := rfl

@[simp] theorem State.startOperation_inMem (o : Op) (s : State) :
    (State.startOperation o s).inMem = s.inMem := rfl

@[simp] theorem State.startOperation_outMem (o : Op) (s : State) :
    (State.startOperation o s).outMem = s.outMem := rfl

@[simp] theorem State.startOperation_inEpoch (o : Op) (s : State) :
    (State.startOperation o s).inEpoch = s.inEpoch := rfl

@[simp] theorem State.startOperation_outEpoch (o : Op) (s : State) :
    (State.startOperation o s).outEpoch = s.outEpoch := rfl

@[simp] theorem State.startOperation_draws (o : Op) (s : State) :
    (State.startOperation o s).draws = s.draws := rfl

@[simp] theorem State.startOperation_rdata (o : Op) (s : State) :
    (State.startOperation o s).rdata = s.rdata := rfl

@[simp] theorem State.startOperation_agenda (o : Op) (s : State) :
    (State.startOperation o s).agenda = s.agenda := rfl

/-! Ending with success (R45). -/

@[simp] theorem State.finishOk_cfg (a b c : Word) (s : State) :
    (State.finishOk a b c s).cfg = s.cfg := rfl

@[simp] theorem State.finishOk_op (a b c : Word) (s : State) :
    (State.finishOk a b c s).op = s.op := rfl

@[simp] theorem State.finishOk_status (a b c : Word) (s : State) :
    (State.finishOk a b c s).status = .succeeded := rfl

@[simp] theorem State.finishOk_inLen (a b c : Word) (s : State) :
    (State.finishOk a b c s).inLen = s.inLen := rfl

@[simp] theorem State.finishOk_outLen (a b c : Word) (s : State) :
    (State.finishOk a b c s).outLen = a := rfl

@[simp] theorem State.finishOk_inPos (a b c : Word) (s : State) :
    (State.finishOk a b c s).inPos = b := rfl

@[simp] theorem State.finishOk_hdr (a b c : Word) (s : State) :
    (State.finishOk a b c s).hdr = c := rfl

@[simp] theorem State.finishOk_phase (a b c : Word) (s : State) :
    (State.finishOk a b c s).phase = .idle := rfl

@[simp] theorem State.finishOk_curOp (a b c : Word) (s : State) :
    (State.finishOk a b c s).curOp = s.curOp := rfl

@[simp] theorem State.finishOk_l (a b c : Word) (s : State) :
    (State.finishOk a b c s).l = s.l := rfl

@[simp] theorem State.finishOk_n (a b c : Word) (s : State) :
    (State.finishOk a b c s).n = s.n := rfl

@[simp] theorem State.finishOk_ipos (a b c : Word) (s : State) :
    (State.finishOk a b c s).ipos = s.ipos := rfl

@[simp] theorem State.finishOk_estart (a b c : Word) (s : State) :
    (State.finishOk a b c s).estart = s.estart := rfl

@[simp] theorem State.finishOk_olen (a b c : Word) (s : State) :
    (State.finishOk a b c s).olen = s.olen := rfl

@[simp] theorem State.finishOk_flags (a b c : Word) (s : State) :
    (State.finishOk a b c s).flags = s.flags := rfl

@[simp] theorem State.finishOk_bit (a b c : Word) (s : State) :
    (State.finishOk a b c s).bit = s.bit := rfl

@[simp] theorem State.finishOk_cptr (a b c : Word) (s : State) :
    (State.finishOk a b c s).cptr = s.cptr := rfl

@[simp] theorem State.finishOk_crem (a b c : Word) (s : State) :
    (State.finishOk a b c s).crem = s.crem := rfl

@[simp] theorem State.finishOk_cbulk (a b c : Word) (s : State) :
    (State.finishOk a b c s).cbulk = s.cbulk := rfl

@[simp] theorem State.finishOk_gcnt (a b c : Word) (s : State) :
    (State.finishOk a b c s).gcnt = s.gcnt := rfl

@[simp] theorem State.finishOk_inMem (a b c : Word) (s : State) :
    (State.finishOk a b c s).inMem = s.inMem := rfl

@[simp] theorem State.finishOk_outMem (a b c : Word) (s : State) :
    (State.finishOk a b c s).outMem = s.outMem.below a.toNat := rfl

@[simp] theorem State.finishOk_inEpoch (a b c : Word) (s : State) :
    (State.finishOk a b c s).inEpoch = s.inEpoch := rfl

@[simp] theorem State.finishOk_outEpoch (a b c : Word) (s : State) :
    (State.finishOk a b c s).outEpoch = s.outEpoch + 1 := rfl

@[simp] theorem State.finishOk_draws (a b c : Word) (s : State) :
    (State.finishOk a b c s).draws = s.draws := rfl

@[simp] theorem State.finishOk_rdata (a b c : Word) (s : State) :
    (State.finishOk a b c s).rdata = s.rdata := rfl

@[simp] theorem State.finishOk_agenda (a b c : Word) (s : State) :
    (State.finishOk a b c s).agenda = s.agenda := rfl

/-! Ending DECODE with success (R116). -/

@[simp] theorem State.finishDecode_cfg (s : State) :
    (s.finishDecode).cfg = s.cfg := rfl

@[simp] theorem State.finishDecode_op (s : State) :
    (s.finishDecode).op = s.op := rfl

@[simp] theorem State.finishDecode_status (s : State) :
    (s.finishDecode).status = .succeeded := rfl

@[simp] theorem State.finishDecode_inLen (s : State) :
    (s.finishDecode).inLen = s.inLen := rfl

@[simp] theorem State.finishDecode_outLen (s : State) :
    (s.finishDecode).outLen = s.l.setWidth 32 := rfl

@[simp] theorem State.finishDecode_inPos (s : State) :
    (s.finishDecode).inPos = s.ipos := rfl

@[simp] theorem State.finishDecode_hdr (s : State) :
    (s.finishDecode).hdr = s.hdr := rfl

@[simp] theorem State.finishDecode_phase (s : State) :
    (s.finishDecode).phase = .idle := rfl

@[simp] theorem State.finishDecode_curOp (s : State) :
    (s.finishDecode).curOp = s.curOp := rfl

@[simp] theorem State.finishDecode_l (s : State) :
    (s.finishDecode).l = s.l := rfl

@[simp] theorem State.finishDecode_n (s : State) :
    (s.finishDecode).n = s.n := rfl

@[simp] theorem State.finishDecode_ipos (s : State) :
    (s.finishDecode).ipos = s.ipos := rfl

@[simp] theorem State.finishDecode_estart (s : State) :
    (s.finishDecode).estart = s.estart := rfl

@[simp] theorem State.finishDecode_olen (s : State) :
    (s.finishDecode).olen = s.olen := rfl

@[simp] theorem State.finishDecode_flags (s : State) :
    (s.finishDecode).flags = s.flags := rfl

@[simp] theorem State.finishDecode_bit (s : State) :
    (s.finishDecode).bit = s.bit := rfl

@[simp] theorem State.finishDecode_cptr (s : State) :
    (s.finishDecode).cptr = s.cptr := rfl

@[simp] theorem State.finishDecode_crem (s : State) :
    (s.finishDecode).crem = s.crem := rfl

@[simp] theorem State.finishDecode_cbulk (s : State) :
    (s.finishDecode).cbulk = s.cbulk := rfl

@[simp] theorem State.finishDecode_gcnt (s : State) :
    (s.finishDecode).gcnt = s.gcnt := rfl

@[simp] theorem State.finishDecode_inMem (s : State) :
    (s.finishDecode).inMem = s.inMem := rfl

@[simp] theorem State.finishDecode_outMem (s : State) :
    (s.finishDecode).outMem = s.outMem.below (s.l.setWidth 32).toNat := rfl

@[simp] theorem State.finishDecode_inEpoch (s : State) :
    (s.finishDecode).inEpoch = s.inEpoch := rfl

@[simp] theorem State.finishDecode_outEpoch (s : State) :
    (s.finishDecode).outEpoch = s.outEpoch + 1 := rfl

@[simp] theorem State.finishDecode_draws (s : State) :
    (s.finishDecode).draws = s.draws := rfl

@[simp] theorem State.finishDecode_rdata (s : State) :
    (s.finishDecode).rdata = s.rdata := rfl

@[simp] theorem State.finishDecode_agenda (s : State) :
    (s.finishDecode).agenda = s.agenda := rfl

/-! Ending with an error (R146). -/

@[simp] theorem State.raise_cfg (e : ErrorCode) (s : State) :
    (State.raise e s).cfg = s.cfg := rfl

@[simp] theorem State.raise_op (e : ErrorCode) (s : State) :
    (State.raise e s).op = s.op := rfl

@[simp] theorem State.raise_status (e : ErrorCode) (s : State) :
    (State.raise e s).status = .failed e := rfl

@[simp] theorem State.raise_inLen (e : ErrorCode) (s : State) :
    (State.raise e s).inLen = s.inLen := rfl

@[simp] theorem State.raise_outLen (e : ErrorCode) (s : State) :
    (State.raise e s).outLen = 0#32 := rfl

@[simp] theorem State.raise_inPos (e : ErrorCode) (s : State) :
    (State.raise e s).inPos = s.estart := rfl

@[simp] theorem State.raise_hdr (e : ErrorCode) (s : State) :
    (State.raise e s).hdr = s.hdr := rfl

@[simp] theorem State.raise_phase (e : ErrorCode) (s : State) :
    (State.raise e s).phase = .idle := rfl

@[simp] theorem State.raise_curOp (e : ErrorCode) (s : State) :
    (State.raise e s).curOp = s.curOp := rfl

@[simp] theorem State.raise_l (e : ErrorCode) (s : State) :
    (State.raise e s).l = s.l := rfl

@[simp] theorem State.raise_n (e : ErrorCode) (s : State) :
    (State.raise e s).n = s.n := rfl

@[simp] theorem State.raise_ipos (e : ErrorCode) (s : State) :
    (State.raise e s).ipos = s.ipos := rfl

@[simp] theorem State.raise_estart (e : ErrorCode) (s : State) :
    (State.raise e s).estart = s.estart := rfl

@[simp] theorem State.raise_olen (e : ErrorCode) (s : State) :
    (State.raise e s).olen = s.olen := rfl

@[simp] theorem State.raise_flags (e : ErrorCode) (s : State) :
    (State.raise e s).flags = s.flags := rfl

@[simp] theorem State.raise_bit (e : ErrorCode) (s : State) :
    (State.raise e s).bit = s.bit := rfl

@[simp] theorem State.raise_cptr (e : ErrorCode) (s : State) :
    (State.raise e s).cptr = s.cptr := rfl

@[simp] theorem State.raise_crem (e : ErrorCode) (s : State) :
    (State.raise e s).crem = s.crem := rfl

@[simp] theorem State.raise_cbulk (e : ErrorCode) (s : State) :
    (State.raise e s).cbulk = s.cbulk := rfl

@[simp] theorem State.raise_gcnt (e : ErrorCode) (s : State) :
    (State.raise e s).gcnt = s.gcnt := rfl

@[simp] theorem State.raise_inMem (e : ErrorCode) (s : State) :
    (State.raise e s).inMem = s.inMem := rfl

@[simp] theorem State.raise_outMem (e : ErrorCode) (s : State) :
    (State.raise e s).outMem = [] := rfl

@[simp] theorem State.raise_inEpoch (e : ErrorCode) (s : State) :
    (State.raise e s).inEpoch = s.inEpoch := rfl

@[simp] theorem State.raise_outEpoch (e : ErrorCode) (s : State) :
    (State.raise e s).outEpoch = s.outEpoch + 1 := rfl

@[simp] theorem State.raise_draws (e : ErrorCode) (s : State) :
    (State.raise e s).draws = s.draws := rfl

@[simp] theorem State.raise_rdata (e : ErrorCode) (s : State) :
    (State.raise e s).rdata = s.rdata := rfl

@[simp] theorem State.raise_agenda (e : ErrorCode) (s : State) :
    (State.raise e s).agenda = s.agenda := rfl

/-! Beginning an element (R101). -/

@[simp] theorem State.beginElement_cfg (e : Element) (s : State) :
    (s.beginElement e).cfg = s.cfg := rfl

@[simp] theorem State.beginElement_op (e : Element) (s : State) :
    (s.beginElement e).op = s.op := rfl

@[simp] theorem State.beginElement_status (e : Element) (s : State) :
    (s.beginElement e).status = s.status := rfl

@[simp] theorem State.beginElement_inLen (e : Element) (s : State) :
    (s.beginElement e).inLen = s.inLen := rfl

@[simp] theorem State.beginElement_outLen (e : Element) (s : State) :
    (s.beginElement e).outLen = s.outLen := rfl

@[simp] theorem State.beginElement_inPos (e : Element) (s : State) :
    (s.beginElement e).inPos = s.inPos := rfl

@[simp] theorem State.beginElement_hdr (e : Element) (s : State) :
    (s.beginElement e).hdr = s.hdr := rfl

@[simp] theorem State.beginElement_phase (e : Element) (s : State) :
    (s.beginElement e).phase = s.phase := rfl

@[simp] theorem State.beginElement_curOp (e : Element) (s : State) :
    (s.beginElement e).curOp = s.curOp := rfl

@[simp] theorem State.beginElement_l (e : Element) (s : State) :
    (s.beginElement e).l = s.l := rfl

@[simp] theorem State.beginElement_n (e : Element) (s : State) :
    (s.beginElement e).n = s.n := rfl

@[simp] theorem State.beginElement_ipos (e : Element) (s : State) :
    (s.beginElement e).ipos = s.ipos := rfl

@[simp] theorem State.beginElement_estart (e : Element) (s : State) :
    (s.beginElement e).estart = s.elementOffset e := rfl

@[simp] theorem State.beginElement_olen (e : Element) (s : State) :
    (s.beginElement e).olen = s.olen := rfl

@[simp] theorem State.beginElement_flags (e : Element) (s : State) :
    (s.beginElement e).flags = s.flags := rfl

@[simp] theorem State.beginElement_bit (e : Element) (s : State) :
    (s.beginElement e).bit = s.bit := rfl

@[simp] theorem State.beginElement_cptr (e : Element) (s : State) :
    (s.beginElement e).cptr = s.cptr := rfl

@[simp] theorem State.beginElement_crem (e : Element) (s : State) :
    (s.beginElement e).crem = s.crem := rfl

@[simp] theorem State.beginElement_cbulk (e : Element) (s : State) :
    (s.beginElement e).cbulk = s.cbulk := rfl

@[simp] theorem State.beginElement_gcnt (e : Element) (s : State) :
    (s.beginElement e).gcnt = s.gcnt := rfl

@[simp] theorem State.beginElement_inMem (e : Element) (s : State) :
    (s.beginElement e).inMem = s.inMem := rfl

@[simp] theorem State.beginElement_outMem (e : Element) (s : State) :
    (s.beginElement e).outMem = s.outMem := rfl

@[simp] theorem State.beginElement_inEpoch (e : Element) (s : State) :
    (s.beginElement e).inEpoch = s.inEpoch := rfl

@[simp] theorem State.beginElement_outEpoch (e : Element) (s : State) :
    (s.beginElement e).outEpoch = s.outEpoch := rfl

@[simp] theorem State.beginElement_draws (e : Element) (s : State) :
    (s.beginElement e).draws = s.draws := rfl

@[simp] theorem State.beginElement_rdata (e : Element) (s : State) :
    (s.beginElement e).rdata = s.rdata := rfl

@[simp] theorem State.beginElement_agenda (e : Element) (s : State) :
    (s.beginElement e).agenda = s.agenda := rfl

/-! TruncatedInput at an element (R117). -/

@[simp] theorem State.truncated_cfg (e : Element) (s : State) :
    (s.truncated e).cfg = s.cfg := rfl

@[simp] theorem State.truncated_op (e : Element) (s : State) :
    (s.truncated e).op = s.op := rfl

@[simp] theorem State.truncated_status (e : Element) (s : State) :
    (s.truncated e).status = .failed .truncatedInput := rfl

@[simp] theorem State.truncated_inLen (e : Element) (s : State) :
    (s.truncated e).inLen = s.inLen := rfl

@[simp] theorem State.truncated_outLen (e : Element) (s : State) :
    (s.truncated e).outLen = 0#32 := rfl

@[simp] theorem State.truncated_inPos (e : Element) (s : State) :
    (s.truncated e).inPos = s.elementOffset e := rfl

@[simp] theorem State.truncated_hdr (e : Element) (s : State) :
    (s.truncated e).hdr = s.hdr := rfl

@[simp] theorem State.truncated_phase (e : Element) (s : State) :
    (s.truncated e).phase = .idle := rfl

@[simp] theorem State.truncated_curOp (e : Element) (s : State) :
    (s.truncated e).curOp = s.curOp := rfl

@[simp] theorem State.truncated_l (e : Element) (s : State) :
    (s.truncated e).l = s.l := rfl

@[simp] theorem State.truncated_n (e : Element) (s : State) :
    (s.truncated e).n = s.n := rfl

@[simp] theorem State.truncated_ipos (e : Element) (s : State) :
    (s.truncated e).ipos = s.ipos := rfl

@[simp] theorem State.truncated_estart (e : Element) (s : State) :
    (s.truncated e).estart = s.elementOffset e := rfl

@[simp] theorem State.truncated_olen (e : Element) (s : State) :
    (s.truncated e).olen = s.olen := rfl

@[simp] theorem State.truncated_flags (e : Element) (s : State) :
    (s.truncated e).flags = s.flags := rfl

@[simp] theorem State.truncated_bit (e : Element) (s : State) :
    (s.truncated e).bit = s.bit := rfl

@[simp] theorem State.truncated_cptr (e : Element) (s : State) :
    (s.truncated e).cptr = s.cptr := rfl

@[simp] theorem State.truncated_crem (e : Element) (s : State) :
    (s.truncated e).crem = s.crem := rfl

@[simp] theorem State.truncated_cbulk (e : Element) (s : State) :
    (s.truncated e).cbulk = s.cbulk := rfl

@[simp] theorem State.truncated_gcnt (e : Element) (s : State) :
    (s.truncated e).gcnt = s.gcnt := rfl

@[simp] theorem State.truncated_inMem (e : Element) (s : State) :
    (s.truncated e).inMem = s.inMem := rfl

@[simp] theorem State.truncated_outMem (e : Element) (s : State) :
    (s.truncated e).outMem = [] := rfl

@[simp] theorem State.truncated_inEpoch (e : Element) (s : State) :
    (s.truncated e).inEpoch = s.inEpoch := rfl

@[simp] theorem State.truncated_outEpoch (e : Element) (s : State) :
    (s.truncated e).outEpoch = s.outEpoch + 1 := rfl

@[simp] theorem State.truncated_draws (e : Element) (s : State) :
    (s.truncated e).draws = s.draws := rfl

@[simp] theorem State.truncated_rdata (e : Element) (s : State) :
    (s.truncated e).rdata = s.rdata := rfl

@[simp] theorem State.truncated_agenda (e : Element) (s : State) :
    (s.truncated e).agenda = s.agenda := rfl

/-! Writing a header (R93, R131). -/

@[simp] theorem State.writeHeader_cfg (w : Word) (s : State) :
    (s.writeHeader w).cfg = s.cfg := rfl

@[simp] theorem State.writeHeader_op (w : Word) (s : State) :
    (s.writeHeader w).op = s.op := rfl

@[simp] theorem State.writeHeader_status (w : Word) (s : State) :
    (s.writeHeader w).status = s.status := rfl

@[simp] theorem State.writeHeader_inLen (w : Word) (s : State) :
    (s.writeHeader w).inLen = s.inLen := rfl

@[simp] theorem State.writeHeader_outLen (w : Word) (s : State) :
    (s.writeHeader w).outLen = s.outLen := rfl

@[simp] theorem State.writeHeader_inPos (w : Word) (s : State) :
    (s.writeHeader w).inPos = s.inPos := rfl

@[simp] theorem State.writeHeader_hdr (w : Word) (s : State) :
    (s.writeHeader w).hdr = s.hdr := rfl

@[simp] theorem State.writeHeader_phase (w : Word) (s : State) :
    (s.writeHeader w).phase = s.phase := rfl

@[simp] theorem State.writeHeader_curOp (w : Word) (s : State) :
    (s.writeHeader w).curOp = s.curOp := rfl

@[simp] theorem State.writeHeader_l (w : Word) (s : State) :
    (s.writeHeader w).l = s.l := rfl

@[simp] theorem State.writeHeader_n (w : Word) (s : State) :
    (s.writeHeader w).n = s.n := rfl

@[simp] theorem State.writeHeader_ipos (w : Word) (s : State) :
    (s.writeHeader w).ipos = s.ipos := rfl

@[simp] theorem State.writeHeader_estart (w : Word) (s : State) :
    (s.writeHeader w).estart = s.estart := rfl

@[simp] theorem State.writeHeader_olen (w : Word) (s : State) :
    (s.writeHeader w).olen = 4#32 := rfl

@[simp] theorem State.writeHeader_flags (w : Word) (s : State) :
    (s.writeHeader w).flags = s.flags := rfl

@[simp] theorem State.writeHeader_bit (w : Word) (s : State) :
    (s.writeHeader w).bit = s.bit := rfl

@[simp] theorem State.writeHeader_cptr (w : Word) (s : State) :
    (s.writeHeader w).cptr = s.cptr := rfl

@[simp] theorem State.writeHeader_crem (w : Word) (s : State) :
    (s.writeHeader w).crem = s.crem := rfl

@[simp] theorem State.writeHeader_cbulk (w : Word) (s : State) :
    (s.writeHeader w).cbulk = s.cbulk := rfl

@[simp] theorem State.writeHeader_gcnt (w : Word) (s : State) :
    (s.writeHeader w).gcnt = s.gcnt := rfl

@[simp] theorem State.writeHeader_inMem (w : Word) (s : State) :
    (s.writeHeader w).inMem = s.inMem := rfl

@[simp] theorem State.writeHeader_outMem (w : Word) (s : State) :
    (s.writeHeader w).outMem = s.outMem.setAll 0 (le32 w) := rfl

@[simp] theorem State.writeHeader_inEpoch (w : Word) (s : State) :
    (s.writeHeader w).inEpoch = s.inEpoch := rfl

@[simp] theorem State.writeHeader_outEpoch (w : Word) (s : State) :
    (s.writeHeader w).outEpoch = s.outEpoch := rfl

@[simp] theorem State.writeHeader_draws (w : Word) (s : State) :
    (s.writeHeader w).draws = s.draws := rfl

@[simp] theorem State.writeHeader_rdata (w : Word) (s : State) :
    (s.writeHeader w).rdata = s.rdata := rfl

@[simp] theorem State.writeHeader_agenda (w : Word) (s : State) :
    (s.writeHeader w).agenda = s.agenda := rfl

/-! The reset event (R171). -/

@[simp] theorem State.resetEvent_cfg (s : State) :
    (s.resetEvent).cfg = s.cfg := rfl

@[simp] theorem State.resetEvent_op (s : State) :
    (s.resetEvent).op = State.reset.op := rfl

@[simp] theorem State.resetEvent_status (s : State) :
    (s.resetEvent).status = State.reset.status := rfl

@[simp] theorem State.resetEvent_inLen (s : State) :
    (s.resetEvent).inLen = State.reset.inLen := rfl

@[simp] theorem State.resetEvent_outLen (s : State) :
    (s.resetEvent).outLen = State.reset.outLen := rfl

@[simp] theorem State.resetEvent_inPos (s : State) :
    (s.resetEvent).inPos = State.reset.inPos := rfl

@[simp] theorem State.resetEvent_hdr (s : State) :
    (s.resetEvent).hdr = State.reset.hdr := rfl

@[simp] theorem State.resetEvent_phase (s : State) :
    (s.resetEvent).phase = State.reset.phase := rfl

@[simp] theorem State.resetEvent_curOp (s : State) :
    (s.resetEvent).curOp = State.reset.curOp := rfl

@[simp] theorem State.resetEvent_l (s : State) :
    (s.resetEvent).l = State.reset.l := rfl

@[simp] theorem State.resetEvent_n (s : State) :
    (s.resetEvent).n = State.reset.n := rfl

@[simp] theorem State.resetEvent_ipos (s : State) :
    (s.resetEvent).ipos = State.reset.ipos := rfl

@[simp] theorem State.resetEvent_estart (s : State) :
    (s.resetEvent).estart = State.reset.estart := rfl

@[simp] theorem State.resetEvent_olen (s : State) :
    (s.resetEvent).olen = State.reset.olen := rfl

@[simp] theorem State.resetEvent_flags (s : State) :
    (s.resetEvent).flags = State.reset.flags := rfl

@[simp] theorem State.resetEvent_bit (s : State) :
    (s.resetEvent).bit = State.reset.bit := rfl

@[simp] theorem State.resetEvent_cptr (s : State) :
    (s.resetEvent).cptr = State.reset.cptr := rfl

@[simp] theorem State.resetEvent_crem (s : State) :
    (s.resetEvent).crem = State.reset.crem := rfl

@[simp] theorem State.resetEvent_cbulk (s : State) :
    (s.resetEvent).cbulk = State.reset.cbulk := rfl

@[simp] theorem State.resetEvent_gcnt (s : State) :
    (s.resetEvent).gcnt = State.reset.gcnt := rfl

@[simp] theorem State.resetEvent_inMem (s : State) :
    (s.resetEvent).inMem = State.reset.inMem := rfl

@[simp] theorem State.resetEvent_outMem (s : State) :
    (s.resetEvent).outMem = State.reset.outMem := rfl

@[simp] theorem State.resetEvent_inEpoch (s : State) :
    (s.resetEvent).inEpoch = s.inEpoch + 1 := rfl

@[simp] theorem State.resetEvent_outEpoch (s : State) :
    (s.resetEvent).outEpoch = s.outEpoch + 1 := rfl

@[simp] theorem State.resetEvent_draws (s : State) :
    (s.resetEvent).draws = s.draws := rfl

@[simp] theorem State.resetEvent_rdata (s : State) :
    (s.resetEvent).rdata = s.rdata := rfl

@[simp] theorem State.resetEvent_agenda (s : State) :
    (s.resetEvent).agenda = s.agenda := rfl

/-! A host read. -/

@[simp] theorem State.returnWord_cfg (w : Word) (s : State) :
    (s.returnWord w).cfg = s.cfg := rfl

@[simp] theorem State.returnWord_op (w : Word) (s : State) :
    (s.returnWord w).op = s.op := rfl

@[simp] theorem State.returnWord_status (w : Word) (s : State) :
    (s.returnWord w).status = s.status := rfl

@[simp] theorem State.returnWord_inLen (w : Word) (s : State) :
    (s.returnWord w).inLen = s.inLen := rfl

@[simp] theorem State.returnWord_outLen (w : Word) (s : State) :
    (s.returnWord w).outLen = s.outLen := rfl

@[simp] theorem State.returnWord_inPos (w : Word) (s : State) :
    (s.returnWord w).inPos = s.inPos := rfl

@[simp] theorem State.returnWord_hdr (w : Word) (s : State) :
    (s.returnWord w).hdr = s.hdr := rfl

@[simp] theorem State.returnWord_phase (w : Word) (s : State) :
    (s.returnWord w).phase = s.phase := rfl

@[simp] theorem State.returnWord_curOp (w : Word) (s : State) :
    (s.returnWord w).curOp = s.curOp := rfl

@[simp] theorem State.returnWord_l (w : Word) (s : State) :
    (s.returnWord w).l = s.l := rfl

@[simp] theorem State.returnWord_n (w : Word) (s : State) :
    (s.returnWord w).n = s.n := rfl

@[simp] theorem State.returnWord_ipos (w : Word) (s : State) :
    (s.returnWord w).ipos = s.ipos := rfl

@[simp] theorem State.returnWord_estart (w : Word) (s : State) :
    (s.returnWord w).estart = s.estart := rfl

@[simp] theorem State.returnWord_olen (w : Word) (s : State) :
    (s.returnWord w).olen = s.olen := rfl

@[simp] theorem State.returnWord_flags (w : Word) (s : State) :
    (s.returnWord w).flags = s.flags := rfl

@[simp] theorem State.returnWord_bit (w : Word) (s : State) :
    (s.returnWord w).bit = s.bit := rfl

@[simp] theorem State.returnWord_cptr (w : Word) (s : State) :
    (s.returnWord w).cptr = s.cptr := rfl

@[simp] theorem State.returnWord_crem (w : Word) (s : State) :
    (s.returnWord w).crem = s.crem := rfl

@[simp] theorem State.returnWord_cbulk (w : Word) (s : State) :
    (s.returnWord w).cbulk = s.cbulk := rfl

@[simp] theorem State.returnWord_gcnt (w : Word) (s : State) :
    (s.returnWord w).gcnt = s.gcnt := rfl

@[simp] theorem State.returnWord_inMem (w : Word) (s : State) :
    (s.returnWord w).inMem = s.inMem := rfl

@[simp] theorem State.returnWord_outMem (w : Word) (s : State) :
    (s.returnWord w).outMem = s.outMem := rfl

@[simp] theorem State.returnWord_inEpoch (w : Word) (s : State) :
    (s.returnWord w).inEpoch = s.inEpoch := rfl

@[simp] theorem State.returnWord_outEpoch (w : Word) (s : State) :
    (s.returnWord w).outEpoch = s.outEpoch := rfl

@[simp] theorem State.returnWord_draws (w : Word) (s : State) :
    (s.returnWord w).draws = s.draws := rfl

@[simp] theorem State.returnWord_rdata (w : Word) (s : State) :
    (s.returnWord w).rdata = w := rfl

@[simp] theorem State.returnWord_agenda (w : Word) (s : State) :
    (s.returnWord w).agenda = s.agenda := rfl

/-! A host read of an undefined register (R41). -/

@[simp] theorem State.returnFreeWord_cfg (s : State) :
    (s.returnFreeWord).cfg = s.cfg := rfl

@[simp] theorem State.returnFreeWord_op (s : State) :
    (s.returnFreeWord).op = s.op := rfl

@[simp] theorem State.returnFreeWord_status (s : State) :
    (s.returnFreeWord).status = s.status := rfl

@[simp] theorem State.returnFreeWord_inLen (s : State) :
    (s.returnFreeWord).inLen = s.inLen := rfl

@[simp] theorem State.returnFreeWord_outLen (s : State) :
    (s.returnFreeWord).outLen = s.outLen := rfl

@[simp] theorem State.returnFreeWord_inPos (s : State) :
    (s.returnFreeWord).inPos = s.inPos := rfl

@[simp] theorem State.returnFreeWord_hdr (s : State) :
    (s.returnFreeWord).hdr = s.hdr := rfl

@[simp] theorem State.returnFreeWord_phase (s : State) :
    (s.returnFreeWord).phase = s.phase := rfl

@[simp] theorem State.returnFreeWord_curOp (s : State) :
    (s.returnFreeWord).curOp = s.curOp := rfl

@[simp] theorem State.returnFreeWord_l (s : State) :
    (s.returnFreeWord).l = s.l := rfl

@[simp] theorem State.returnFreeWord_n (s : State) :
    (s.returnFreeWord).n = s.n := rfl

@[simp] theorem State.returnFreeWord_ipos (s : State) :
    (s.returnFreeWord).ipos = s.ipos := rfl

@[simp] theorem State.returnFreeWord_estart (s : State) :
    (s.returnFreeWord).estart = s.estart := rfl

@[simp] theorem State.returnFreeWord_olen (s : State) :
    (s.returnFreeWord).olen = s.olen := rfl

@[simp] theorem State.returnFreeWord_flags (s : State) :
    (s.returnFreeWord).flags = s.flags := rfl

@[simp] theorem State.returnFreeWord_bit (s : State) :
    (s.returnFreeWord).bit = s.bit := rfl

@[simp] theorem State.returnFreeWord_cptr (s : State) :
    (s.returnFreeWord).cptr = s.cptr := rfl

@[simp] theorem State.returnFreeWord_crem (s : State) :
    (s.returnFreeWord).crem = s.crem := rfl

@[simp] theorem State.returnFreeWord_cbulk (s : State) :
    (s.returnFreeWord).cbulk = s.cbulk := rfl

@[simp] theorem State.returnFreeWord_gcnt (s : State) :
    (s.returnFreeWord).gcnt = s.gcnt := rfl

@[simp] theorem State.returnFreeWord_inMem (s : State) :
    (s.returnFreeWord).inMem = s.inMem := rfl

@[simp] theorem State.returnFreeWord_outMem (s : State) :
    (s.returnFreeWord).outMem = s.outMem := rfl

@[simp] theorem State.returnFreeWord_inEpoch (s : State) :
    (s.returnFreeWord).inEpoch = s.inEpoch := rfl

@[simp] theorem State.returnFreeWord_outEpoch (s : State) :
    (s.returnFreeWord).outEpoch = s.outEpoch := rfl

@[simp] theorem State.returnFreeWord_draws (s : State) :
    (s.returnFreeWord).draws = s.draws + 1 := rfl

@[simp] theorem State.returnFreeWord_rdata (s : State) :
    (s.returnFreeWord).rdata = Config.freeWord s.draws := rfl

@[simp] theorem State.returnFreeWord_agenda (s : State) :
    (s.returnFreeWord).agenda = s.agenda := rfl

/-! A host read of an undefined window byte (R68). -/

@[simp] theorem State.returnFreeByte_cfg (s : State) :
    (s.returnFreeByte).cfg = s.cfg := rfl

@[simp] theorem State.returnFreeByte_op (s : State) :
    (s.returnFreeByte).op = s.op := rfl

@[simp] theorem State.returnFreeByte_status (s : State) :
    (s.returnFreeByte).status = s.status := rfl

@[simp] theorem State.returnFreeByte_inLen (s : State) :
    (s.returnFreeByte).inLen = s.inLen := rfl

@[simp] theorem State.returnFreeByte_outLen (s : State) :
    (s.returnFreeByte).outLen = s.outLen := rfl

@[simp] theorem State.returnFreeByte_inPos (s : State) :
    (s.returnFreeByte).inPos = s.inPos := rfl

@[simp] theorem State.returnFreeByte_hdr (s : State) :
    (s.returnFreeByte).hdr = s.hdr := rfl

@[simp] theorem State.returnFreeByte_phase (s : State) :
    (s.returnFreeByte).phase = s.phase := rfl

@[simp] theorem State.returnFreeByte_curOp (s : State) :
    (s.returnFreeByte).curOp = s.curOp := rfl

@[simp] theorem State.returnFreeByte_l (s : State) :
    (s.returnFreeByte).l = s.l := rfl

@[simp] theorem State.returnFreeByte_n (s : State) :
    (s.returnFreeByte).n = s.n := rfl

@[simp] theorem State.returnFreeByte_ipos (s : State) :
    (s.returnFreeByte).ipos = s.ipos := rfl

@[simp] theorem State.returnFreeByte_estart (s : State) :
    (s.returnFreeByte).estart = s.estart := rfl

@[simp] theorem State.returnFreeByte_olen (s : State) :
    (s.returnFreeByte).olen = s.olen := rfl

@[simp] theorem State.returnFreeByte_flags (s : State) :
    (s.returnFreeByte).flags = s.flags := rfl

@[simp] theorem State.returnFreeByte_bit (s : State) :
    (s.returnFreeByte).bit = s.bit := rfl

@[simp] theorem State.returnFreeByte_cptr (s : State) :
    (s.returnFreeByte).cptr = s.cptr := rfl

@[simp] theorem State.returnFreeByte_crem (s : State) :
    (s.returnFreeByte).crem = s.crem := rfl

@[simp] theorem State.returnFreeByte_cbulk (s : State) :
    (s.returnFreeByte).cbulk = s.cbulk := rfl

@[simp] theorem State.returnFreeByte_gcnt (s : State) :
    (s.returnFreeByte).gcnt = s.gcnt := rfl

@[simp] theorem State.returnFreeByte_inMem (s : State) :
    (s.returnFreeByte).inMem = s.inMem := rfl

@[simp] theorem State.returnFreeByte_outMem (s : State) :
    (s.returnFreeByte).outMem = s.outMem := rfl

@[simp] theorem State.returnFreeByte_inEpoch (s : State) :
    (s.returnFreeByte).inEpoch = s.inEpoch := rfl

@[simp] theorem State.returnFreeByte_outEpoch (s : State) :
    (s.returnFreeByte).outEpoch = s.outEpoch := rfl

@[simp] theorem State.returnFreeByte_draws (s : State) :
    (s.returnFreeByte).draws = s.draws + 1 := rfl

@[simp] theorem State.returnFreeByte_rdata (s : State) :
    (s.returnFreeByte).rdata = (Config.freeByte s.draws).setWidth 32 := rfl

@[simp] theorem State.returnFreeByte_agenda (s : State) :
    (s.returnFreeByte).agenda = s.agenda := rfl

end Sys2Proof.Machine
end

