-- ==== Sys2Proof/Laws/Ops.lean ====
section
/-!
SUPPORT. What each shared operation can do, said once: appending a byte, the launch duty, a command, and reading the windows
after a write.
-/

namespace Sys2Proof.Machine

/-- Reading a window depends only on its contents and their epoch. -/
theorem State.inByte_congr {s t : State} (h : t.inMem = s.inMem) (he : t.inEpoch = s.inEpoch) (i : Nat) :
    t.inByte i = s.inByte i := by
  simp only [State.inByte, h, he]

theorem State.outByte_congr {s t : State} (h : t.outMem = s.outMem) (he : t.outEpoch = s.outEpoch) (i : Nat) :
    t.outByte i = s.outByte i := by
  simp only [State.outByte, h, he]

/-- The byte appended stands at OLEN. -/
theorem State.outByte_emit_self (v : Byte) (s : State) : (s.emit v).outByte s.olen.toNat = v := by
  simp [State.outByte, Memory.get?_set_self]

/-- Appending leaves every other OUT byte alone. -/
theorem State.outByte_emit_other (v : Byte) (s : State) {k : Nat} (h : k ≠ s.olen.toNat) :
    (s.emit v).outByte k = s.outByte k := by
  simp [State.outByte, Memory.get?_set_other _ _ _ _ h]

/-- A known byte is the one read. -/
theorem State.outByte_of_get? {s : State} {k : Nat} {v : Byte} (h : s.outMem.get? k = some v) : s.outByte k = v := by
  simp only [State.outByte, h]

/-- Appending either writes at OLEN and goes on, or finds no byte there. -/
theorem State.emitThen_cases (v : Byte) (k : State → State) (s : State) :
    (s.olen.toNat < s.cfg.outCap ∧ State.emitThen v k s = .next (k (s.emit v))) ∨
      (s.cfg.outCap ≤ s.olen.toNat ∧ State.emitThen v k s = .fault .outWindowOverrun) := by
  unfold State.emitThen
  split
  · exact Or.inl ⟨by assumption, rfl⟩
  · exact Or.inr ⟨by omega, rfl⟩

/-- Appending where OUT has a byte goes on. -/
theorem State.emitThen_next {v : Byte} {k : State → State} {s : State} (h : s.olen.toNat < s.cfg.outCap) :
    State.emitThen v k s = .next (k (s.emit v)) := if_pos h

/-- If appending answers a next state, it is the continued one. -/
theorem State.emitThen_inv {v : Byte} {k : State → State} {s t : State} (h : State.emitThen v k s = .next t) :
    s.olen.toNat < s.cfg.outCap ∧ t = k (s.emit v) := by
  rcases State.emitThen_cases v k s with ⟨hc, he⟩ | ⟨_, he⟩
  · rw [he] at h
    exact ⟨hc, by injection h with h; exact h.symm⟩
  · rw [he] at h
    cases h

/-- An instance in scope meets R54. -/
theorem inScope_iff (c : Config) :
    inScope c = true ↔
      4 ≤ c.inCap ∧ 2 ^ 24 - 1 ≤ c.outCap ∧ eMax c + ceilDiv (eMax c) 8 + 4 ≤ c.outCap ∧ c.outCap ≤ 2 ^ 32 - 1 := by
  simp only [inScope, Bool.and_eq_true, decide_eq_true_eq, and_assoc]

/-- When a launch keeps the host's duty (R55). -/
theorem launchRefusal_none_iff (c : Config) (op : Op) (len : Word) :
    launchRefusal c op len = none ↔ inScope c = true ∧ (op = .hdrSerialize ∨ len.toNat ≤ c.inCap) := by
  unfold launchRefusal
  cases hs : inScope c <;> by_cases h : op ≠ .hdrSerialize ∧ c.inCap < len.toNat
  · simp
  · simp
  · rw [if_neg (by simp), if_pos h]
    simp only [reduceCtorEq, true_and, false_iff]
    rintro (h1 | h1)
    · exact h.1 h1
    · omega
  · rw [if_neg (by simp), if_neg h]
    simp only [true_and, true_iff]
    by_contra hc
    push Not at hc
    exact h ⟨hc.1, hc.2⟩

/-- What a command can do: nothing while BUSY, a refusal of a broken launch, or the start of the operation. -/
theorem State.command_cases (op : Op) (s : State) :
    (s.busy = true ∧ State.command op s = .next s) ∨
      (∃ r, s.busy = false ∧ launchRefusal s.cfg op s.inLen = some r ∧ State.command op s = .refused r) ∨
      (s.busy = false ∧ launchRefusal s.cfg op s.inLen = none ∧
        State.command op s = .next (State.startOperation op { s with op := op })) := by
  unfold State.command
  cases hb : s.busy
  · cases hl : launchRefusal s.cfg op s.inLen with
    | none => exact Or.inr (Or.inr ⟨rfl, rfl, rfl⟩)
    | some r => exact Or.inr (Or.inl ⟨r, rfl, rfl, rfl⟩)
  · exact Or.inl ⟨rfl, rfl⟩

/-- Known OUT bytes stay known when a byte is appended, and one more is known. -/
theorem Memory.isSome_set {m : Memory} {a : Nat} (v : Byte) {k : Nat} (h : k = a ∨ (m.get? k).isSome = true) :
    ((m.set a v).get? k).isSome = true := by
  by_cases hk : k = a
  · subst hk
    simp [Memory.get?_set_self]
  · rw [Memory.get?_set_other _ _ _ _ hk]
    rcases h with h | h
    · exact absurd h hk
    · exact h

end Sys2Proof.Machine
end

