-- ==== Sys2Proof/Laws/Engine.lean ====
section
/-!
SUPPORT. What an engine step is in each phase, and what reading an element gives: the instruction whose bytes stand at the
element's offset, or TruncatedInput.
-/

namespace Sys2Proof.Machine

/-- Fewer bytes than the element has are no element. -/
theorem decodeElement_short {e : Element} {bytes : List Byte} (h : bytes.length < elementBytes e) :
    decodeElement e bytes = .error .truncated := by
  cases e <;> rcases bytes with _ | ⟨a, _ | ⟨b, _ | ⟨c, _ | ⟨d, rest⟩⟩⟩⟩ <;>
    first
      | rfl
      | (simp only [elementBytes, List.length_cons, List.length_nil] at h; omega)

/-- How many bytes are available (R51). -/
theorem State.available_length (e : Element) (s : State) :
    (s.available e).length = min 4 (s.n.toNat - (s.elementOffset e).toNat) := by
  simp [State.available]

/-- An element that does not fit below N is TruncatedInput (R117). -/
theorem State.runElement_short {e : Element} {s : State}
    (h : s.n.toNat < (s.elementOffset e).toNat + elementBytes e) : s.runElement e = .next (s.truncated e) := by
  unfold State.runElement
  rw [decodeElement_short]
  rw [State.available_length]
  have : 1 ≤ elementBytes e := by cases e <;> decide
  omega

/-- The available bytes begin with the ones at the element's offset. -/
theorem State.available_eq {e : Element} {s : State} {k : Nat} (hk : k ≤ 4)
    (h : (s.elementOffset e).toNat + k ≤ s.n.toNat) :
    ∃ rest, s.available e =
      (List.range k).map (fun j => s.inByte ((s.elementOffset e).toNat + j)) ++ rest := by
  obtain ⟨m, hm⟩ : ∃ m, min 4 (s.n.toNat - (s.elementOffset e).toNat) = k + m :=
    ⟨min 4 (s.n.toNat - (s.elementOffset e).toNat) - k, by omega⟩
  refine ⟨((List.range m).map (fun j => k + j)).map (fun j => s.inByte ((s.elementOffset e).toNat + j)), ?_⟩
  unfold State.available
  rw [hm, List.range_add, List.map_append]

/-- The header word the IN window begins with (R71). -/
def State.headerWordIn (s : State) : Word := fromLE32 (s.inByte 0) (s.inByte 1) (s.inByte 2) (s.inByte 3)

/-- HEADER is read from IN[0..3] (R102). -/
theorem State.runElement_header {s : State} (h : 4 ≤ s.n.toNat) :
    s.runElement .header = exec (.header (headerLen s.headerWordIn) (headerTag s.headerWordIn)) s := by
  obtain ⟨rest, hr⟩ := State.available_eq (s := s) (e := .header) (k := 4) (by omega)
    (by simp [State.elementOffset]; omega)
  unfold State.runElement
  rw [hr]
  simp [List.range_succ, decodeElement, State.elementOffset, State.headerWordIn]

/-- FLAG is read from IN[IPOS] (R104). -/
theorem State.runElement_flag {s : State} (h : s.ipos.toNat < s.n.toNat) :
    s.runElement .flag = exec (.flag (s.inByte s.ipos.toNat)) s := by
  obtain ⟨rest, hr⟩ := State.available_eq (s := s) (e := .flag) (k := 1) (by omega)
    (by simp only [State.elementOffset]; omega)
  unfold State.runElement
  rw [hr]
  simp [List.range_succ, decodeElement, State.elementOffset]

/-- LIT is read from IN[IPOS] (R106). -/
theorem State.runElement_lit {s : State} (h : s.ipos.toNat < s.n.toNat) :
    s.runElement .lit = exec (.lit (s.inByte s.ipos.toNat)) s := by
  obtain ⟨rest, hr⟩ := State.available_eq (s := s) (e := .lit) (k := 1) (by omega)
    (by simp only [State.elementOffset]; omega)
  unfold State.runElement
  rw [hr]
  simp [List.range_succ, decodeElement, State.elementOffset]

/-- The info word of the two bytes at IPOS (R75). -/
def State.infoIn (s : State) : BitVec 16 := fromBE16 (s.inByte s.ipos.toNat) (s.inByte (s.ipos.toNat + 1))

/-- BREF is read from IN[IPOS] and IN[IPOS + 1] (R107). -/
theorem State.runElement_bref {s : State} (h : s.ipos.toNat + 2 ≤ s.n.toNat) :
    s.runElement .bref = exec (.bref (brefTlen s.infoIn) (brefDisp s.infoIn)) s := by
  obtain ⟨rest, hr⟩ := State.available_eq (s := s) (e := .bref) (k := 2) (by omega)
    (by simp only [State.elementOffset]; omega)
  unfold State.runElement
  rw [hr]
  simp [List.range_succ, decodeElement, State.elementOffset, State.infoIn]

/-- An idle engine does nothing (R162). -/
theorem State.engineStep_idle {s : State} (h : s.phase = .idle) : s.engineStep = .next s := if_pos h

/-- In a launch that keeps the host's duty the engine takes the step of its phase. -/
theorem State.engineStep_launched {s : State} (hl : launchRefusal s.cfg s.curOp s.n = none) :
    s.engineStep = s.phaseStep := by
  unfold State.engineStep
  split
  · rename_i h
    simp [State.phaseStep, h]
  · simp [hl]

/-- If the engine answers a next state, it was idle, or took the step of its phase in a sound launch. -/
theorem State.engineStep_next {s t : State} (h : s.engineStep = .next t) :
    (s.phase = .idle ∧ t = s) ∨
      (s.phase ≠ .idle ∧ launchRefusal s.cfg s.curOp s.n = none ∧ s.phaseStep = .next t) := by
  unfold State.engineStep at h
  split at h
  · injection h with h
    exact Or.inl ⟨by assumption, h.symm⟩
  · cases hl : launchRefusal s.cfg s.curOp s.n with
    | none =>
      rw [hl] at h
      exact Or.inr ⟨by assumption, rfl, h⟩
    | some r =>
      rw [hl] at h
      cases h

end Sys2Proof.Machine
end

