-- ==== Sys2Proof/Laws/Operands.lean ====
section
/-!
SUPPORT. The small laws of the field layouts: which bits a header's and a back-reference's fields are, and increments that do not
wrap.
-/

namespace Sys2Proof

/-- Incrementing a word below its top adds one. -/
theorem toNat_add_one {x : Word} (h : x.toNat + 1 < 2 ^ 32) : (x + 1).toNat = x.toNat + 1 := by
  rw [BitVec.toNat_add]
  exact Nat.mod_eq_of_lt (by simpa using h)

/-- Advancing a word by two below its top adds two. -/
theorem toNat_add_two {x : Word} (h : x.toNat + 2 < 2 ^ 32) : (x + 2).toNat = x.toNat + 2 := by
  rw [BitVec.toNat_add]
  exact Nat.mod_eq_of_lt (by simpa using h)

/-- L, zero-extended, is the same number. -/
theorem toNat_zext_len (l : BitVec 24) : (l.setWidth 32).toNat = l.toNat := by
  rw [BitVec.toNat_setWidth]
  have := l.isLt
  omega

/-- LEN of the word made from LEN and TAG. -/
@[simp] theorem headerLen_headerWord (l : BitVec 24) (t : Byte) : headerLen (headerWord l t) = l := by
  unfold headerLen headerWord
  apply BitVec.eq_of_getLsbD_eq
  intro i hi
  simp only [BitVec.getLsbD_append, BitVec.getLsbD_extractLsb', hi, decide_true, Bool.true_and]
  rw [if_neg (by omega)]
  congr 1
  omega

/-- TAG of the word made from LEN and TAG. -/
@[simp] theorem headerTag_headerWord (l : BitVec 24) (t : Byte) : headerTag (headerWord l t) = t := by
  unfold headerTag headerWord
  apply BitVec.eq_of_getLsbD_eq
  intro i hi
  simp only [BitVec.getLsbD_append, BitVec.getLsbD_extractLsb', hi, decide_true, Bool.true_and]
  rw [if_pos (by omega)]
  congr 1
  omega

/-- A word is made of its LEN and TAG. -/
theorem headerWord_fields (w : Word) : headerWord (headerLen w) (headerTag w) = w := by
  unfold headerLen headerTag headerWord
  apply BitVec.eq_of_getLsbD_eq
  intro i hi
  simp only [BitVec.getLsbD_append, BitVec.getLsbD_extractLsb']
  split
  · simp [*]
  · have h8 : 8 + (i - 8) = i := by omega
    have h24 : i - 8 < 24 := by omega
    rw [h8]
    simp [h24]

/-- TLEN is 3..18 (R76). -/
theorem brefTlen_range (info : BitVec 16) : 3 ≤ (brefTlen info).toNat ∧ (brefTlen info).toNat ≤ 18 := by
  unfold brefTlen
  have h := (BitVec.extractLsb' 12 4 info).isLt
  rw [BitVec.toNat_add, BitVec.toNat_setWidth]
  norm_num
  omega

end Sys2Proof
end

