-- ==== Sys2Proof/Laws/Stream.lean ====
section
/-!
SUPPORT. What follows a token, said once, and the three ends of HDR_PARSE's step.
-/

namespace Sys2Proof.Machine

/-- Whatever follows a token, FLAGS has shifted, BIT has counted, and input and output pointers stay (R114). -/
theorem State.postToken_always (s : State) :
    s.postToken.flags = flagShift s.flags ∧ s.postToken.bit = s.bit + 1 ∧ s.postToken.estart = s.estart ∧
      s.postToken.ipos = s.ipos ∧ s.postToken.olen = s.olen ∧ s.postToken.l = s.l ∧ s.postToken.hdr = s.hdr := by
  unfold State.postToken
  dsimp only
  split
  · exact ⟨rfl, rfl, rfl, rfl, rfl, rfl, rfl⟩
  · split <;> exact ⟨rfl, rfl, rfl, rfl, rfl, rfl, rfl⟩

/-- A token that reaches L ends decoding (R114, R116). -/
theorem State.postToken_done {s : State} (h : s.olen.toNat = s.l.toNat) :
    s.postToken = ({ s with flags := flagShift s.flags, bit := s.bit + 1 } : State).finishDecode := if_pos h

/-- A token that does not reach L goes on, to a flag byte after the eighth, to a token otherwise (R115). -/
theorem State.postToken_goes_on {s : State} (h : s.olen.toNat ≠ s.l.toNat) :
    s.postToken =
      { s with
        flags := flagShift s.flags, bit := s.bit + 1,
        phase := if s.bit + 1 = 8#4 then .dReadFlag else .dToken } := by
  unfold State.postToken
  dsimp only
  rw [if_neg h]
  split <;> rfl

/-- Ending DECODE leaves every known byte below L as it was (R68, R116). -/
theorem State.outByte_finishDecode {s : State} {k : Nat} (h : k < s.l.toNat) (hk : (s.outMem.get? k).isSome = true) :
    s.finishDecode.outByte k = s.outByte k := by
  simp only [State.outByte, State.finishDecode_outMem, toNat_zext_len, Memory.get?_below_of_lt _ h]
  cases hx : s.outMem.get? k with
  | none => simp [hx] at hk
  | some v => rfl

/-- TAG of the word made from four bytes is the first byte (R71). -/
theorem headerTag_fromLE32 (b0 b1 b2 b3 : Byte) : headerTag (fromLE32 b0 b1 b2 b3) = b0 := by
  unfold headerTag fromLE32
  apply BitVec.eq_of_getLsbD_eq
  intro i hi
  simp only [BitVec.getLsbD_extractLsb', BitVec.getLsbD_append, hi, decide_true, Bool.true_and]
  rw [if_pos (by omega)]
  congr 1
  omega

/-- H_PARSE below four bytes (R92). -/
theorem State.hParseStep_short {s : State} (h : s.n.toNat < 4) :
    s.hParseStep = State.raise .truncatedInput { s with estart := 0#32 } := if_pos h

/-- H_PARSE of a wrong tag (R92). -/
theorem State.hParseStep_wrong_tag {s : State} (h : 4 ≤ s.n.toNat) (ht : headerTag s.headerWordIn ≠ 0x10#8) :
    s.hParseStep =
      State.raise .unsupportedFormat { s with estart := 0#32, ipos := 4#32, hdr := s.headerWordIn } := by
  unfold State.hParseStep
  rw [if_neg (by omega)]
  exact if_neg ht

/-- H_PARSE of a header (R92). -/
theorem State.hParseStep_header {s : State} (h : 4 ≤ s.n.toNat) (ht : headerTag s.headerWordIn = 0x10#8) :
    s.hParseStep =
      State.finishOk 0#32 4#32 s.headerWordIn { s with estart := 0#32, ipos := 4#32, hdr := s.headerWordIn } := by
  unfold State.hParseStep
  rw [if_neg (by omega)]
  exact if_pos ht

/-- A command is the shared operation on its OP. -/
theorem exec_commandInstr (op : Op) (s : State) : exec (commandInstr op) s = State.command op s := by
  cases op <;> rfl

end Sys2Proof.Machine
end

