-- ==== Sys2Proof/Laws/Bus.lean ====
section
/-!
SUPPORT. What a step of the host's side can do: a register read touches only what the host got, and a CTRL write is a command,
an OP update, or nothing.
-/

namespace Sys2Proof.Machine

/-- A register read changes only the value returned and the count of fresh draws (R26, R61). -/
theorem State.regRead_side (off : Nat) (s : State) :
    ∃ w d, s.regRead off = { s with rdata := w, draws := d } := by
  unfold State.regRead State.readResult
  split_ifs <;> exact ⟨_, _, rfl⟩

/-- A write of CTRL with START set is the command of its OP (R22). -/
theorem State.writeCtrl_start {w : Word} {s : State} (h : commandStart w = true) :
    s.writeCtrl w = State.command (commandOp w) s := by
  unfold State.writeCtrl decodeCommand
  simp only [h, if_true]
  exact exec_commandInstr _ _

/-- A write of CTRL with START clear is no command (R22). -/
theorem State.writeCtrl_noStart {w : Word} {s : State} (h : commandStart w = false) :
    s.writeCtrl w = .next (if s.busy then s else { s with op := commandOp w }) := by
  unfold State.writeCtrl decodeCommand
  simp only [h, Bool.false_eq_true, if_false]

/-- With an empty agenda the engine goes on. -/
theorem step_engine {s : State} (h : s.agenda = []) : step s = s.engineStep := by
  simp only [step, h]

/-- With a move on the agenda the step is that move, on the state whose agenda has moved on. -/
theorem step_move {s : State} {m : Move} {rest : List Move} (h : s.agenda = m :: rest) :
    step s = State.move m { s with agenda := rest } := by
  simp only [step, h]

end Sys2Proof.Machine
end

