-- ==== Sys2Proof/Laws/Invariant.lean ====
section
/-!
SUPPORT. The pieces an invariant proof is made of: each shared operation, once, for the invariant of Safety.lean.
-/

namespace Sys2Proof.Machine

/-- The part of the invariant about the two windows. -/
structure WindowsSound (s : State) : Prop where
  inWf : s.inMem.wf
  inBound : ∀ c ∈ s.inMem, c.1 < s.cfg.inCap
  outWf : s.outMem.wf
  outBound : ∀ c ∈ s.outMem, c.1 < s.cfg.outCap

/-- An invariant state's windows are sound. -/
theorem WindowsSound.of_inv (s : State) (h : Inv s) : WindowsSound s := ⟨h.inWf, h.inBound, h.outWf, h.outBound⟩

/-- Raising an error leaves an invariant state. -/
theorem inv_raise {e : ErrorCode} {s : State} (w : WindowsSound s) (h : e = .unsupportedFormat → headerTag s.hdr ≠ 0x10#8) :
    Inv (State.raise e s) where
  inWf := w.inWf
  inBound := w.inBound
  outWf := by simp
  outBound := by simp
  phaseStatus := by simp [State.busy, Status.busy]
  launched := by simp [State.busy, Status.busy]
  phaseInv := by simp [PhaseInv]
  resultInv := by simpa [ResultInv] using h

/-- A successful end leaves an invariant state. -/
theorem inv_finishOk {a b c : Word} {s : State} (w : WindowsSound s) (hk : s.outKnown a.toNat)
    (h : s.curOp = .decode → a.toNat = (headerLen c).toNat ∧ headerTag c = 0x10#8 ∧ 4 ≤ b.toNat) :
    Inv (State.finishOk a b c s) where
  inWf := w.inWf
  inBound := w.inBound
  outWf := by simpa using Memory.wf_below w.outWf _
  outBound := fun c hc => w.outBound c (Memory.mem_below hc)
  phaseStatus := by simp [State.busy, Status.busy]
  launched := by simp [State.busy, Status.busy]
  phaseInv := by simp [PhaseInv]
  resultInv := by
    refine ⟨fun k hk' => ?_, by simpa using h⟩
    have hk' : k < a.toNat := hk'
    show ((s.outMem.below a.toNat).get? k).isSome = true
    rw [Memory.get?_below_of_lt _ hk']
    exact hk k hk'

/-- Appending within the capacity keeps the windows sound. -/
theorem windowsSound_emit {v : Byte} {s : State} (w : WindowsSound s) (h : s.olen.toNat < s.cfg.outCap) : WindowsSound (s.emit v) where
  inWf := w.inWf
  inBound := w.inBound
  outWf := by simpa using Memory.wf_set w.outWf _ _
  outBound := by
    intro c hc
    simp only [State.emit_outMem] at hc
    rcases Memory.mem_set hc with rfl | hc
    · exact h
    · exact w.outBound c hc

/-- Appending leaves all output known if it was. -/
theorem outKnown_emit {v : Byte} {s : State} (h : s.outKnown s.olen.toNat) (hm : s.olen.toNat + 1 < 2^32) :
    (s.emit v).outKnown (s.emit v).olen.toNat := by
  intro k hk
  simp only [State.emit_olen, State.emit_outMem] at hk ⊢
  apply Memory.isSome_set
  rw [toNat_add_one hm] at hk
  by_cases hx : k = s.olen.toNat
  · exact Or.inl hx
  · exact Or.inr (h k (by omega))

/-- A running state is invariant if its windows, its launch and its phase are sound. -/
theorem inv_of_running {s : State} (w : WindowsSound s) (hp : s.phase ≠ .idle) (hb : s.status = .running) (ho : s.op = s.curOp)
    (hi : s.inLen = s.n) (hl : launchRefusal s.cfg s.curOp s.n = none) (hP : PhaseInv s) : Inv s where
  inWf := w.inWf
  inBound := w.inBound
  outWf := w.outWf
  outBound := w.outBound
  phaseStatus := by simp [State.busy, Status.busy, hp, hb]
  launched := fun _ => ⟨ho, hi, hl⟩
  phaseInv := hP
  resultInv := by simp [ResultInv, hb]

/-- The part of the invariant about the launch of a running operation. -/
structure Launched (s : State) : Prop where
  st : s.status = .running
  op : s.op = s.curOp
  len : s.inLen = s.n
  launch : launchRefusal s.cfg s.curOp s.n = none

/-- A state that is not idle is running a sound launch. -/
theorem Launched.of_inv {s : State} (h : Inv s) (hp : s.phase ≠ .idle) : Launched s := by
  have hb : s.busy = true := by
    cases hb : s.busy
    · exact absurd (h.phaseStatus.mpr hb) hp
    · rfl
  obtain ⟨a, b, c⟩ := h.launched hb
  refine ⟨?_, a, b, c⟩
  cases hs : s.status <;> simp [State.busy, Status.busy, hs] at hb
  rfl

/-- The terminal condition leaves an invariant state (R116). -/
theorem inv_finishDecode {s : State} (w : WindowsSound s) (d : Decoding s) (h : s.olen.toNat = s.l.toNat) : Inv s.finishDecode := by
  apply inv_finishOk w
  · rw [toNat_zext_len, ← h]
    exact d.known
  · intro _
    rw [toNat_zext_len, d.header]
    exact ⟨by simp, by simp, d.iposLow⟩

/-- TruncatedInput leaves an invariant state (R117). -/
theorem inv_truncated {e : Element} {s : State} (w : WindowsSound s) : Inv (s.truncated e) :=
  inv_raise ⟨w.inWf, w.inBound, w.outWf, w.outBound⟩ (by simp)

/-- Writing a header keeps the windows sound. -/
theorem windowsSound_writeHeader {w : Word} {s : State} (h : WindowsSound s) (hc : 4 ≤ s.cfg.outCap) : WindowsSound (s.writeHeader w) where
  inWf := h.inWf
  inBound := h.inBound
  outWf := by simpa using Memory.wf_setAll h.outWf _ _
  outBound := by
    intro c hc'
    simp only [State.writeHeader_outMem] at hc'
    rcases Memory.mem_setAll hc' with ⟨_, h2⟩ | h2
    · simp [le32] at h2
      simp only [State.writeHeader_cfg]; omega
    · exact h.outBound c h2

/-- The header written is known. -/
theorem outKnown_writeHeader {w : Word} {s : State} : (s.writeHeader w).outKnown 4 := by
  intro k hk
  have := Memory.get?_setAll_self s.outMem 0 k (le32 w) (by simpa [le32] using hk)
  simp only [Nat.zero_add] at this
  simp [State.writeHeader_outMem, this]

end Sys2Proof.Machine
end

