-- ==== Sys2Proof/Laws/PerInstr.lean ====
section
/-!
SUPPORT. Statements for all instructions as syntax, one lemma per constructor: the size and kind of each instruction's code in the
opcode map (30_encoding.md R81).
-/

namespace Sys2Proof.Laws.CodeShape

/-- The code of an instruction is a CTRL word with START set for a command, and the element's own number of bytes, under the
element's own selection, for a stream element (R80, R81). -/
def Statement (i : Instr) : Prop :=
  match encodeInstr i with
  | .ctrl w => commandStart w = true ∧ commandInstr (commandOp w) = i
  | .stream e bytes => bytes.length = elementBytes e ∧ ∃ rest, decodeElement e bytes = .ok rest

theorem decode : Statement .decode := ⟨rfl, rfl⟩

theorem encode : Statement .encode := ⟨rfl, rfl⟩

theorem hdrParse : Statement .hdrParse := ⟨rfl, rfl⟩

theorem hdrSerialize : Statement .hdrSerialize := ⟨rfl, rfl⟩

theorem header (len : BitVec 24) (tag : Byte) : Statement (.header len tag) := ⟨rfl, ⟨_, rfl⟩⟩

theorem flag (f : Byte) : Statement (.flag f) := ⟨rfl, ⟨_, rfl⟩⟩

theorem lit (v : Byte) : Statement (.lit v) := ⟨rfl, ⟨_, rfl⟩⟩

theorem bref (tlen : BitVec 5) (disp : BitVec 12) : Statement (.bref tlen disp) := ⟨rfl, ⟨_, rfl⟩⟩

end Sys2Proof.Laws.CodeShape
end

