-- ==== Sys2Proof/Tests/Slice0.lean ====
section
/-!
SUPPORT. The model's own tests. Expected values come from the spec's encodings and worked examples (30_encoding.md, 40_header.md,
41_decode.md, 42_encode.md, 95_test_vectors.md), never from the model. The witnesses at the end show that the hypotheses of each
statement can be met together.
-/

namespace Sys2Proof.Tests

open Sys2Proof.Machine

/-- The next state of an outcome, if it is one. -/
def nextOf : Host.Outcome State Fault Refusal → Option State
  | .next s => some s
  | .fault _ => none
  | .refused _ => none

/-- The refusal of an outcome, if it is one. -/
def refusalOf : Host.Outcome State Fault Refusal → Option Refusal
  | .next _ => none
  | .fault _ => none
  | .refused r => some r

/-- The instruction a decoding gives, if it gives one. -/
def instrOf : Except DecodeError (Instr × List Byte) → Option (Instr × List Byte)
  | .ok r => some r
  | .error _ => none

/-- An idle instance whose input is the given bytes. -/
def loaded (input : List Byte) : State :=
  { State.reset with inMem := State.reset.inMem.setAll 0 input, inLen := BitVec.ofNat 32 input.length }

/-- A running DECODE in a phase, with N input bytes, L and OLEN. -/
def decoding (ph : Phase) (n : Nat) (l olen : Nat) : State :=
  { State.reset with
    status := .running, phase := ph, inLen := BitVec.ofNat 32 n, n := BitVec.ofNat 32 n, ipos := 4#32,
    l := BitVec.ofNat 24 l, hdr := headerWord (BitVec.ofNat 24 l) 0x10#8, olen := BitVec.ofNat 32 olen,
    outMem := (List.range olen).map (fun k => (k, 0x61#8)) }

/-- A running ENCODE in a phase, with N input bytes, IPOS, OLEN and GCNT. -/
def encoding (ph : Phase) (n ipos olen gcnt : Nat) : State :=
  { State.reset with
    status := .running, op := .encode, curOp := .encode, phase := ph, inLen := BitVec.ofNat 32 n,
    n := BitVec.ofNat 32 n, ipos := BitVec.ofNat 32 ipos, hdr := BitVec.ofNat 32 (n * 256 + 16),
    olen := BitVec.ofNat 32 olen, gcnt := BitVec.ofNat 4 gcnt,
    outMem := (List.range olen).map (fun k => (k, 0x61#8)) }

/-! ## Well-formedness: an ill-formed term for each check -/

/-- R82: a HEADER's TAG other than 0x10 is illegal. -/
theorem test_wf_refuses_wrong_tag : (Instr.header 10#24 0x11#8).wellFormed = false := by decide

/-- R76, R89: a BREF length below 3 is illegal. -/
theorem test_wf_refuses_short_bref : (Instr.bref 2#5 0#12).wellFormed = false := by decide

/-- R76, R89: a BREF length above 18 is illegal. -/
theorem test_wf_refuses_long_bref : (Instr.bref 19#5 0#12).wellFormed = false := by decide

/-- R76: the ends of the range are legal. -/
theorem test_wf_accepts_bref_ends :
    (Instr.bref 3#5 0#12).wellFormed = true ∧ (Instr.bref 18#5 4095#12).wellFormed = true := by decide

/-! ## Decoding: words written out bit by bit from the spec's encodings -/

/-- R80: START = 1 and OP = 0b00, reserved bits all ones (95 G3). -/
theorem test_decode_decode_word :
    instrOf (decodeInstr (.ctrl 0b11111111111111111111111111111001#32)) = some (.decode, []) := by decide

/-- R80: START = 1 and OP = 0b01. -/
theorem test_decode_encode_word : instrOf (decodeInstr (.ctrl 0b011#32)) = some (.encode, []) := by decide

/-- R80: START = 1 and OP = 0b10. -/
theorem test_decode_hdrParse_word : instrOf (decodeInstr (.ctrl 0b101#32)) = some (.hdrParse, []) := by decide

/-- R80: START = 1 and OP = 0b11. -/
theorem test_decode_hdrSerialize_word : instrOf (decodeInstr (.ctrl 0b111#32)) = some (.hdrSerialize, []) := by
  decide

/-- R22: START = 0 is no command (95 G2). -/
theorem test_decode_start_clear : instrOf (decodeInstr (.ctrl 0b100#32)) = none := by decide

/-- R71: the header of L = 0x123456 is 10 56 34 12 (95 S4). -/
theorem test_decode_header_bytes :
    instrOf (decodeInstr (.stream .header [0b00010000#8, 0b01010110#8, 0b00110100#8, 0b00010010#8])) =
      some (.header 0x123456#24 0x10#8, []) := by decide

/-- C1: the bytes 04 00 00 11 have tag 0x04 (95 W3). -/
theorem test_decode_header_little_endian :
    instrOf (decodeInstr (.stream .header [0x04#8, 0x00#8, 0x00#8, 0x11#8])) =
      some (.header 0x110000#24 0x04#8, []) := by decide

/-- R73: a flag byte, with the bytes after it left over. -/
theorem test_decode_flag_byte :
    instrOf (decodeInstr (.stream .flag [0b00010000#8, 0x41#8])) = some (.flag 0x10#8, [0x41#8]) := by decide

/-- R74: a literal byte. -/
theorem test_decode_lit_byte :
    instrOf (decodeInstr (.stream .lit [0b01000001#8])) = some (.lit 0x41#8, []) := by decide

/-- R75: LM3 = 0b0001 and DISP = 0b001000110100, high byte first (95 B4). -/
theorem test_decode_bref_bytes :
    instrOf (decodeInstr (.stream .bref [0b00010010#8, 0b00110100#8])) = some (.bref 4#5 564#12, []) := by decide

/-- R75: length and displacement at their ends (95 B5, B1). -/
theorem test_decode_bref_ends :
    instrOf (decodeInstr (.stream .bref [0xFF#8, 0xFF#8])) = some (.bref 18#5 4095#12, []) ∧
      instrOf (decodeInstr (.stream .bref [0x00#8, 0x00#8])) = some (.bref 3#5 0#12, []) := by decide

/-- R86: BREF 7, 2 is 40 02. -/
theorem test_encode_bref : encodeInstr (.bref 7#5 2#12) = .stream .bref [0x40#8, 0x02#8] := by decide

/-- R71: the header of L = 10 is 10 0A 00 00. -/
theorem test_encode_header :
    encodeInstr (.header 10#24 0x10#8) = .stream .header [0x10#8, 0x0A#8, 0x00#8, 0x00#8] := by decide

/-! ## The instructions -/

/-- R43: DECODE enters D_HEADER and latches IN_LEN. -/
theorem test_exec_decode_starts :
    (nextOf (exec .decode (loaded [0x10#8, 0x0A#8]))).map (fun t => (t.phase, t.n, t.status)) =
      some (.dHeader, 2#32, .running) := by decide

/-- R55: an IN_LEN above P_IN_CAP is refused. -/
theorem test_exec_decode_refused :
    refusalOf (exec .decode { State.reset with inLen := 0x2000001#32 }) = some .inLenOverCapacity := by decide

/-- R130: ENCODE enters E_HEADER. -/
theorem test_exec_encode_starts :
    (nextOf (exec .encode (loaded [0x78#8]))).map (fun t => (t.phase, t.op, t.n)) = some (.eHeader, .encode, 1#32) := by
  decide

/-- R92: HDR_PARSE enters H_PARSE. -/
theorem test_exec_hdrParse_starts :
    (nextOf (exec .hdrParse (loaded [0x10#8]))).map (fun t => (t.phase, t.curOp)) = some (.hParse, .hdrParse) := by
  decide

/-- R92, 95 H5: the tag of 11 00 00 04 is 0x11, and HDR holds the word. -/
theorem test_hParse_bad_tag :
    (State.hParseStep { loaded [0x11#8, 0x00#8, 0x00#8, 0x04#8] with n := 4#32 }).status.word = 0x14#32 ∧
      (State.hParseStep { loaded [0x11#8, 0x00#8, 0x00#8, 0x04#8] with n := 4#32 }).hdr = 0x04000011#32 := by
  decide

/-- R27: HDR_SERIALIZE takes any IN_LEN, which is a value and no byte count. -/
theorem test_exec_hdrSerialize_starts :
    (nextOf (exec .hdrSerialize { State.reset with inLen := 0xFFFFFFFF#32 })).map (fun t => (t.phase, t.n)) =
      some (.hSer, 0xFFFFFFFF#32) := by decide

/-- R93, 95 S4: the four header bytes of 0x123456. -/
theorem test_hSer_bytes :
    (State.hSerStep { State.reset with n := 0x123456#32 }).outMem =
      [(0, 0x10#8), (1, 0x56#8), (2, 0x34#8), (3, 0x12#8)] := by decide

/-- R102: HEADER latches L and goes on to the flag byte. -/
theorem test_exec_header :
    (nextOf (exec (.header 10#24 0x10#8) (decoding .dHeader 10 0 0))).map (fun t => (t.l, t.hdr, t.ipos, t.phase)) =
      some (10#24, 0x00000A10#32, 4#32, .dReadFlag) := by decide

/-- R142: a bad tag fails with HDR kept and IN_POS 0 (95 D18). -/
theorem test_exec_header_bad_tag :
    (nextOf (exec (.header 5#24 0x12#8) (decoding .dHeader 4 0 0))).map (fun t => (t.status.word, t.hdr, t.inPos)) =
      some (0x14#32, 0x00000512#32, 0#32) := by decide

/-- R104: FLAG begins a group. -/
theorem test_exec_flag :
    (nextOf (exec (.flag 0x10#8) (decoding .dReadFlag 10 10 0))).map (fun t => (t.flags, t.ipos, t.bit, t.phase)) =
      some (0x10#8, 5#32, 0#4, .dToken) := by decide

/-- R104, 95 D3: a missing flag byte is TruncatedInput at its own offset. -/
theorem test_exec_flag_truncated :
    (nextOf (exec (.flag 0x00#8) (decoding .dReadFlag 4 1 0))).map (fun t => (t.status.word, t.inPos)) =
      some (0x24#32, 4#32) := by decide

/-- R106: LIT appends at OLEN. -/
theorem test_exec_lit :
    (nextOf (exec (.lit 0x41#8) (decoding .dToken 10 10 1))).map (fun t => (t.outMem, t.olen, t.ipos)) =
      some ([(0, 0x61#8), (1, 0x41#8)], 2#32, 5#32) := by decide

/-- R114, 95 W7: the literal that reaches L ends decoding, with flag bits left. -/
theorem test_exec_lit_done :
    (nextOf (exec (.lit 0x41#8) { decoding .dToken 6 1 0 with flags := 0x7F#8, ipos := 5#32 })).map
      (fun t => (t.status.word, t.outLen, t.inPos, t.outMem)) =
      some (0x02#32, 1#32, 6#32, [(0, 0x41#8)]) := by decide

/-- R108 to R110, 95 W1: length 18 from displacement 0 is byte-by-byte from offset 0. -/
theorem test_exec_bref_overlap :
    (nextOf (exec (.bref 18#5 0#12) (decoding .dToken 8 19 1))).map
      (fun t => (t.cptr, t.crem, t.cbulk, t.phase)) = some (0#24, 18#5, false, .dCopy) := by decide

/-- R109, R110, 95 P4: the clamp makes length 18 a bulk copy of 2. -/
theorem test_exec_bref_clamped :
    (nextOf (exec (.bref 18#5 7#12) (decoding .dToken 16 10 8))).map (fun t => (t.cptr, t.crem, t.cbulk)) =
      some (0#24, 2#5, true) := by decide

/-- R120: a COPY step repeats the byte just before OLEN. -/
theorem test_copy_step :
    (nextOf (State.copyStep { decoding .dCopy 8 19 1 with cptr := 0#24, crem := 18#5 })).map
      (fun t => (t.outMem, t.crem, t.cptr)) = some ([(0, 0x61#8), (1, 0x61#8)], 17#5, 1#24) := by decide

/-- R131, 95 W2: the second group of ten bytes holds two literals. -/
theorem test_eFlag_partial_group :
    (nextOf (State.eFlagStep (encoding .eFlag 10 8 13 0))).map (fun t => (t.gcnt, t.olen, t.outMem.get? 13)) =
      some (2#4, 14#32, some 0x00#8) := by decide

/-! ## Placing an instruction where the next step takes it -/

/-- The word of each command, and the bytes of a header, a back-reference and a literal, run as the first instruction. -/
theorem test_fetch_command : (nextOf (step (State.reset.withFetchWord 32 0x3))).map (fun t => t.phase) = some .eHeader := by
  decide

theorem test_fetch_header :
    (nextOf (step (State.reset.withFetchWord 32 0x00000A10))).map (fun t => (t.phase, t.l)) =
      some (.dReadFlag, 10#24) := by decide

theorem test_fetch_lit :
    (nextOf (step (State.reset.withFetchWord 8 0x42))).map (fun t => t.outMem) = some [(0, 0x42#8)] := by decide

/-- A back-reference as the first token is InvalidBackReference (95 D6). -/
theorem test_fetch_bref :
    (nextOf (step (State.reset.withFetchWord 16 0x0000))).map (fun t => t.status.word) = some 0x34#32 := by decide

theorem test_fetch_flag :
    (nextOf (step (State.reset.withFetchWord 0 0))).map (fun t => (t.phase, t.ipos)) = some (.dToken, 1#32) := by decide

theorem test_table_words :
    decodeTableWord 32 0x1 = some .decode ∧ decodeTableWord 32 0x10 = some (.header 0#24 0x10#8) ∧
      decodeTableWord 16 0x4002 = some (.bref 7#5 2#12) ∧ decodeTableWord 8 0x42 = some (.lit 0x42#8) := by decide

/-! ## The listing and the codec -/

/-- R87's example. -/
theorem test_group_listing :
    (match assembleLine (.group [.lit 0x41, .lit 0x42, .lit 0x43, .bref 7 2]) with
      | .ok bytes => some bytes
      | .error _ => none) = some [0x10#8, 0x41#8, 0x42#8, 0x43#8, 0x40#8, 0x02#8] := by decide

/-- 95 D8: "AB" repeated. -/
theorem test_decodeBytes_overlap :
    decodeBytes [0x10#8, 0x05#8, 0x00#8, 0x00#8, 0x20#8, 0x41#8, 0x42#8, 0x00#8, 0x01#8] =
      .ok [0x41#8, 0x42#8, 0x41#8, 0x42#8, 0x41#8] 9 0x00000510#32 := by decide

/-- 95 D20: a displacement before the output's start. -/
theorem test_decodeBytes_bad_reference :
    decodeBytes [0x10#8, 0x04#8, 0x00#8, 0x00#8, 0x40#8, 0x41#8, 0x0F#8, 0xFF#8] =
      .err .invalidBackReference 0#8 6 0x00000410#32 := by decide

/-- 95 E5: nine bytes take two groups. -/
theorem test_encodeBytes_two_groups :
    encodeBytes .reject [0x41#8, 0x42#8, 0x43#8, 0x44#8, 0x45#8, 0x46#8, 0x47#8, 0x48#8, 0x49#8] =
      .ok [0x10#8, 0x09#8, 0x00#8, 0x00#8, 0x00#8, 0x41#8, 0x42#8, 0x43#8, 0x44#8, 0x45#8, 0x46#8, 0x47#8, 0x48#8, 0x00#8, 0x49#8]
        9 0x00000910#32 := by decide

/-! ## Witnesses: the hypotheses of each statement, met together by a concrete state and operands -/

/-- A running DECODE in D_TOKEN whose current flag bit is b. -/
def inToken (b : Byte) : State := { decoding .dToken 8 19 1 with flags := b, bit := 1#4 }

/-- A running copy: "a" has been written and 18 more are to come (95 W1). -/
def copying : State := { decoding .dCopy 8 19 1 with ipos := 8#32, cptr := 0#24, crem := 18#5, bit := 1#4 }

/-- An instance whose capacities break R54. -/
def outOfScope : State := { State.reset with cfg := { State.reset.cfg with inCap := 3 } }

theorem outKnown_of_range (s : State) (n : Nat) (h : ∀ k : Fin n, (s.outMem.get? k.val).isSome = true) : s.outKnown n :=
  fun k hk => h ⟨k, hk⟩

theorem witness_EncodeThenDecode :
    (Instr.header 16777215#24 0x10#8).wellFormed = true ∧ (Instr.flag 0xFF#8).wellFormed = true ∧
      (Instr.lit 0x00#8).wellFormed = true ∧ (Instr.bref 18#5 4095#12).wellFormed = true ∧
      Instr.decode.wellFormed = true := by decide

theorem witness_DecodedElement :
    (∃ i, decodeElement .header [0x11#8, 0#8, 0#8, 4#8, 9#8] = .ok (i, [9#8])) ∧
      (∃ i, decodeElement .bref [0xF0#8, 0x00#8] = .ok (i, [])) := ⟨⟨_, rfl⟩, ⟨_, rfl⟩⟩

theorem witness_ElementLengths :
    elementBytes .header ≤ [0x10#8, 0x00#8, 0x00#8, (0x00#8 : Byte)].length ∧
      ¬ elementBytes .bref ≤ [(0xF0#8 : Byte)].length := by decide

theorem witness_Parse : ([0x10#8, 0x00#8, (0x00#8 : Byte)]).length < 4 ∧ (0x11#8 : Byte) ≠ 0x10#8 := by decide

theorem witness_Serialize :
    (0x00FFFFFF#32).toNat < 2 ^ 24 ∧ 2 ^ 24 ≤ (0x01000000#32).toNat ∧
      (∃ b, serialize .truncate 0x01000000#32 = .ok b) ∧ (∃ b, serialize .reject 0x00FFFFFF#32 = .ok b) :=
  ⟨by decide, by decide, ⟨_, rfl⟩, ⟨_, rfl⟩⟩

theorem witness_Idle : State.reset.busy = false := by decide

theorem witness_Busy : copying.busy = true ∧ 0x3FFFFFF < copying.cfg.outCap ∧ 0x1FFFFFF < copying.cfg.inCap := by decide

theorem witness_ControlWrite :
    copying.busy = true ∧ State.reset.busy = false ∧ (0x00000004#32).getLsbD 0 = false ∧
      (0xFFFFFFF9#32).getLsbD 0 = true ∧ (∃ t, exec .decode State.reset = .next t) :=
  ⟨by decide, by decide, by decide, by decide, ⟨_, rfl⟩⟩

theorem witness_RegisterAccess :
    (AccessWidth.bits16 ≠ .bits32 ∧ 0x02 % 4 ≠ 0 ∧ 0x20 ≤ 0x20) ∧ 0x1C % 4 = 0 ∧ 0x1C < 0x20 ∧ 0x1C ≠ 0x00 := by decide

theorem witness_WindowIdle :
    State.reset.busy = false ∧ 0 < State.reset.cfg.inCap ∧ 0x1FFFFFF < State.reset.cfg.inCap ∧
      0x3FFFFFF < State.reset.cfg.outCap := by decide

theorem witness_WindowOutside : State.reset.cfg.inCap ≤ 0x2000000 ∧ State.reset.cfg.outCap ≤ 0x4000000 := by decide

theorem witness_CommandStarts :
    State.reset.busy = false ∧ inScope State.reset.cfg = true ∧ State.reset.inLen.toNat ≤ State.reset.cfg.inCap := by
  decide

/-- The largest input the capacity admits. -/
theorem witness_CommandStarts_full :
    inScope State.reset.cfg = true ∧ (0x2000000#32).toNat ≤ State.reset.cfg.inCap := by decide

theorem witness_BrokenLaunch :
    State.reset.busy = false ∧ inScope State.reset.cfg = true ∧ State.reset.cfg.inCap < (0x2000001#32).toNat ∧
      outOfScope.busy = false ∧ inScope outOfScope.cfg = false ∧ copying.phase ≠ .idle ∧
      copying.curOp ≠ .hdrSerialize := by decide

/-- A running launch of an instance out of scope, and one whose N is above the capacity. -/
theorem witness_BrokenLaunch_running :
    (State.phase { copying with cfg := outOfScope.cfg } ≠ .idle ∧ inScope outOfScope.cfg = false) ∧
      (copying.cfg.inCap < (State.n { copying with n := 0x2000001#32 }).toNat ∧ inScope copying.cfg = true) := by decide

theorem witness_HdrParse :
    (loaded [0x10#8]).inLen.toNat < 4 ∧
      4 ≤ (loaded [0x11#8, 0x00#8, 0x00#8, 0x04#8]).inLen.toNat ∧
      (loaded [0x11#8, 0x00#8, 0x00#8, 0x04#8]).inByte 0 ≠ 0x10#8 ∧
      4 ≤ (loaded [0x10#8, 0x0A#8, 0x00#8, 0x00#8]).inLen.toNat ∧
      (loaded [0x10#8, 0x0A#8, 0x00#8, 0x00#8]).inByte 0 = 0x10#8 ∧
      (loaded [0x10#8, 0x0A#8, 0x00#8, 0x00#8]).busy = false := by decide

theorem witness_HdrSerialize :
    2 ^ 24 ≤ (0x01000000#32).toNat ∧ State.reset.cfg.lenOverflow = .reject ∧ (0x00FFFFFF#32).toNat < 2 ^ 24 ∧
      inScope { State.reset.cfg with lenOverflow := .truncate } = true := by decide

theorem witness_DecodeRuns :
    (loaded [0x10#8, 0x01#8, 0x00#8, 0x00#8, 0x00#8, 0x41#8]).busy = false ∧
      inScope (loaded [0x10#8, 0x01#8, 0x00#8, 0x00#8, 0x00#8, 0x41#8]).cfg = true ∧
      (loaded [0x10#8, 0x01#8, 0x00#8, 0x00#8, 0x00#8, 0x41#8]).inLen.toNat ≤
        (loaded [0x10#8, 0x01#8, 0x00#8, 0x00#8, 0x00#8, 0x41#8]).cfg.inCap := by decide

/-- ENCODE of 2^24 bytes fits the capacity, so that LengthOverflow is reached under REJECT. -/
theorem witness_EncodeRuns :
    (0x01000000#32).toNat ≤ State.reset.cfg.inCap ∧ 2 ^ 24 ≤ (0x01000000#32).toNat ∧
      State.reset.cfg.lenOverflow = .reject ∧ (loaded [0x78#8]).inLen.toNat < 2 ^ 24 := by decide

/-- Two launches alike in their input and unlike in the rest, one micro-step on. -/
theorem witness_ResultDepends :
    ∃ t₁ t₂ u₁ u₂,
      exec .hdrParse (loaded [0x10#8, 0x00#8, 0x00#8, 0x00#8]) = .next t₁ ∧
      exec .hdrParse { loaded [0x10#8, 0x00#8, 0x00#8, 0x00#8] with
        cfg := { standardConfig with outCap := 0x5000000 }, flags := 0xAA#8, outMem := [(3, 1#8)] } = .next t₂ ∧
      engineRun 1 t₁ = .next u₁ ∧ engineRun 1 t₂ = .next u₂ := ⟨_, _, _, _, rfl, rfl, rfl, rfl⟩

theorem witness_Header :
    4 ≤ (decoding .dHeader 4 0 0).n.toNat ∧ (0x12#8 : Byte) ≠ 0x10#8 ∧ (decoding .dHeader 3 0 0).n.toNat < 4 := by decide

theorem witness_Flag :
    (decoding .dReadFlag 5 1 0).ipos.toNat < (decoding .dReadFlag 5 1 0).n.toNat ∧
      (decoding .dReadFlag 4 1 0).n.toNat ≤ (decoding .dReadFlag 4 1 0).ipos.toNat := by decide

theorem witness_Lit :
    (inToken 0x00#8).ipos.toNat < (inToken 0x00#8).n.toNat ∧ (inToken 0x00#8).olen.toNat < (inToken 0x00#8).l.toNat ∧
      inScope (inToken 0x00#8).cfg = true ∧ (inToken 0x00#8).outKnown (inToken 0x00#8).olen.toNat :=
  ⟨by decide, by decide, by decide, outKnown_of_range _ 1 (by decide)⟩

theorem witness_Lit_truncated : (decoding .dToken 4 2 1).n.toNat ≤ (decoding .dToken 4 2 1).ipos.toNat := by decide

/-- The literal that reaches L, the eighth of a group, and one that does neither. -/
theorem witness_TokenEnds :
    (decoding .dToken 6 2 1).olen.toNat + 1 = (decoding .dToken 6 2 1).l.toNat ∧
      ((inToken 0x00#8).olen.toNat + 1 ≠ (inToken 0x00#8).l.toNat ∧ (inToken 0x00#8).bit ≠ 7#4) ∧
      State.bit { inToken 0x00#8 with bit := 7#4 } = 7#4 ∧
      (State.phase { copying with crem := 1#5 } = .dCopy ∧ State.crem { copying with crem := 1#5 } = 1#5 ∧
        launchRefusal copying.cfg copying.curOp copying.n = none) := by decide

theorem witness_Bref :
    (inToken 0x80#8).ipos.toNat + 2 ≤ (inToken 0x80#8).n.toNat ∧ (0#12).toNat + 1 ≤ (inToken 0x80#8).olen.toNat ∧
      (inToken 0x80#8).olen.toNat < (inToken 0x80#8).l.toNat := by decide

theorem witness_Bref_errors :
    (decoding .dToken 5 2 1).n.toNat < (decoding .dToken 5 2 1).ipos.toNat + 2 ∧
      (decoding .dToken 6 2 1).ipos.toNat + 2 ≤ (decoding .dToken 6 2 1).n.toNat ∧
      (decoding .dToken 6 2 1).olen.toNat < (1#12).toNat + 1 := by decide

theorem witness_CopyStep :
    copying.phase = .dCopy ∧ launchRefusal copying.cfg copying.curOp copying.n = none ∧
      copying.olen.toNat < copying.l.toNat ∧ 2 ≤ copying.crem.toNat := by decide

theorem inv_copying : Inv copying :=
  inv_of_running ⟨by decide, by decide, by decide, by decide⟩ (by decide) rfl rfl rfl (by decide)
    ⟨⟨rfl, by decide, by decide, rfl, outKnown_of_range _ 1 (by decide)⟩, by decide, by decide, by decide, by decide,
      by decide⟩

theorem witness_CopyRepeats : Inv copying ∧ copying.phase = .dCopy := ⟨inv_copying, rfl⟩

/-- A source that touches the output's end, and one that ends before it (90 C6). -/
theorem witness_CopyPaths : 0 < [0x41#8, (0x42#8 : Byte)].length ∧ 1 < [0x41#8, (0x42#8 : Byte)].length := by decide

theorem witness_TerminalCheck :
    (decoding .dReadFlag 8 2 2).phase = .dReadFlag ∧
      launchRefusal (decoding .dReadFlag 8 2 2).cfg (decoding .dReadFlag 8 2 2).curOp (decoding .dReadFlag 8 2 2).n = none ∧
      (decoding .dReadFlag 8 2 2).olen.toNat = (decoding .dReadFlag 8 2 2).l.toNat ∧
      (decoding .dReadFlag 8 2 2).outKnown (decoding .dReadFlag 8 2 2).olen.toNat :=
  ⟨rfl, by decide, by decide, outKnown_of_range _ 2 (by decide)⟩

/-- L = 0: the terminal check right after the header (R103). -/
theorem witness_TerminalCheck_empty :
    (decoding .dReadFlag 4 0 0).olen.toNat = (decoding .dReadFlag 4 0 0).l.toNat := by decide

theorem witness_ShortElement :
    ((decoding .dReadFlag 4 1 0).nextElement = some .flag ∧
      (decoding .dReadFlag 4 1 0).n.toNat < ((decoding .dReadFlag 4 1 0).elementOffset .flag).toNat + elementBytes .flag) ∧
    ((decoding .dHeader 3 0 0).nextElement = some .header ∧
      (decoding .dHeader 3 0 0).n.toNat < ((decoding .dHeader 3 0 0).elementOffset .header).toNat + elementBytes .header) ∧
    (inToken 0x80#8).nextElement = some .bref ∧ (inToken 0x00#8).nextElement = some .lit := by decide

theorem witness_StreamElementFrame :
    (∃ t, exec (.header 10#24 0x10#8) (decoding .dHeader 10 0 0) = .next t ∧ t.phase = .dReadFlag) ∧
      (∃ t, exec (.flag 0x00#8) (decoding .dReadFlag 10 10 0) = .next t ∧ t.phase = .dToken) ∧
      (∃ t, exec (.lit 0x41#8) (inToken 0x00#8) = .next t ∧ t.phase ≠ .idle) ∧
      (∃ t, exec (.bref 3#5 0#12) (inToken 0x80#8) = .next t ∧ t.phase = .dCopy) :=
  ⟨⟨_, rfl, rfl⟩, ⟨_, rfl, rfl⟩, ⟨_, rfl, by decide⟩, ⟨_, rfl, rfl⟩⟩

theorem witness_CommandFrame :
    (∃ t, exec .decode State.reset = .next t) ∧ (∃ t, exec .encode State.reset = .next t) ∧
      (∃ t, exec .hdrParse State.reset = .next t) ∧ (∃ t, exec .hdrSerialize State.reset = .next t) :=
  ⟨⟨_, rfl⟩, ⟨_, rfl⟩, ⟨_, rfl⟩, ⟨_, rfl⟩⟩

theorem witness_EngineStep : ∃ t, copying.engineStep = .next t ∧ t.phase ≠ .idle := ⟨_, rfl, by decide⟩

theorem inv_lastLiteral : Inv { decoding .dToken 5 1 0 with flags := 0x00#8 } :=
  inv_of_running ⟨by decide, by decide, by decide, by decide⟩ (by decide) rfl rfl rfl (by decide)
    ⟨⟨rfl, by decide, by decide, rfl, outKnown_of_range _ 0 (by decide)⟩, by decide, by decide⟩

/-- A step that goes on, and one that ends with success. -/
theorem witness_OutputAppendOnly :
    (Inv copying ∧ copying.phase ≠ .hSer ∧ copying.phase ≠ .eHeader ∧ ∃ t, copying.engineStep = .next t ∧ t.phase ≠ .idle) ∧
      (∃ t, State.engineStep { decoding .dToken 5 1 0 with flags := 0x00#8 } = .next t ∧ t.status = .succeeded) :=
  ⟨⟨inv_copying, by decide, by decide, ⟨_, rfl, by decide⟩⟩, ⟨_, rfl, by decide⟩⟩

theorem inv_eHeader_fits : Inv { encoding .eHeader 0 0 0 0 with n := 10#32, inLen := 10#32 } :=
  inv_of_running ⟨by decide, by decide, by decide, by decide⟩ (by decide) rfl rfl rfl (by decide) ⟨rfl, rfl⟩

theorem inv_eHeader_overflows : Inv { encoding .eHeader 0 0 0 0 with n := 0x01000000#32, inLen := 0x01000000#32 } :=
  inv_of_running ⟨by decide, by decide, by decide, by decide⟩ (by decide) rfl rfl rfl (by decide) ⟨rfl, rfl⟩

/-- E_HEADER of a length that fits, and of one that does not. -/
theorem witness_EncoderHeader :
    Inv { encoding .eHeader 0 0 0 0 with n := 10#32, inLen := 10#32 } ∧
      Inv { encoding .eHeader 0 0 0 0 with n := 0x01000000#32, inLen := 0x01000000#32 } ∧
      2 ^ 24 ≤ (0x01000000#32).toNat ∧ (encoding .eHeader 0 0 0 0).cfg.lenOverflow = .reject :=
  ⟨inv_eHeader_fits, inv_eHeader_overflows, by decide, by decide⟩

/-- E_FLAG with input left, at the end of the input, and E_LIT. -/
theorem witness_EncoderGroups :
    (Inv (encoding .eFlag 10 0 4 0) ∧ (encoding .eFlag 10 0 4 0).ipos ≠ (encoding .eFlag 10 0 4 0).n) ∧
      (Inv (encoding .eFlag 0 0 4 0) ∧ (encoding .eFlag 0 0 4 0).ipos = (encoding .eFlag 0 0 4 0).n) ∧
      (Inv (encoding .eLit 10 9 15 1) ∧ (encoding .eLit 10 9 15 1).phase = .eLit) :=
  ⟨⟨inv_of_running ⟨by decide, by decide, by decide, by decide⟩ (by decide) rfl rfl rfl (by decide)
      ⟨⟨rfl, by decide, rfl, outKnown_of_range _ 4 (by decide)⟩, by decide, by decide⟩, by decide⟩,
    ⟨inv_of_running ⟨by decide, by decide, by decide, by decide⟩ (by decide) rfl rfl rfl (by decide)
      ⟨⟨rfl, by decide, rfl, outKnown_of_range _ 4 (by decide)⟩, by decide, by decide⟩, by decide⟩,
    ⟨inv_of_running ⟨by decide, by decide, by decide, by decide⟩ (by decide) rfl rfl rfl (by decide)
      ⟨⟨rfl, by decide, rfl, outKnown_of_range _ 15 (by decide)⟩, by decide, by decide, by decide⟩, rfl⟩⟩

theorem witness_StepRuns :
    ((inToken 0x00#8).agenda = [] ∧ (inToken 0x00#8).nextElement = some .lit ∧
      launchRefusal (inToken 0x00#8).cfg (inToken 0x00#8).curOp (inToken 0x00#8).n = none ∧
      ∃ i rest, decodeElement .lit ((inToken 0x00#8).available .lit) = .ok (i, rest)) ∧
    ((State.reset.withFetchWord 32 0x5).agenda = [.regWrite .bits32 0x00 5#32] ∧ decodeCommand 5#32 = .ok .hdrParse) :=
  ⟨⟨rfl, by decide, by decide, ⟨_, _, rfl⟩⟩, ⟨rfl, rfl⟩⟩

theorem witness_StepTakes :
    State.reset.agenda = [] ∧ State.reset.phase = .idle ∧
      (State.reset.withFetchWord 32 0x1).agenda = [.regWrite .bits32 0x00 1#32] := ⟨rfl, rfl, rfl⟩

/-- An invariant state and its step. -/
theorem witness_EveryStep : Inv copying ∧ ∃ t, step copying = .next t := ⟨inv_copying, ⟨_, rfl⟩⟩

theorem witness_Codec : ([] : List Byte).length < 2 ^ 24 ∧ [0x78#8, (0x79#8 : Byte)].length < 2 ^ 24 := by decide

theorem witness_TruncatedLength :
    2 ^ 24 ≤ (List.replicate (2 ^ 24) (0x00#8 : Byte)).length ∧ (List.replicate (2 ^ 24) (0x00#8 : Byte)).length < 2 ^ 32 := by
  rw [List.length_replicate]
  exact ⟨le_refl _, by norm_num⟩

theorem witness_EncodedSize : ∃ y pos word, encodeBytes .reject [0x78#8] = .ok y pos word := ⟨_, _, _, rfl⟩

theorem witness_DecodeDepends :
    ∃ out pos word, decodeBytes [0x10#8, 0x01#8, 0x00#8, 0x00#8, 0x7F#8, 0x41#8, 0x99#8] = .ok out pos word :=
  ⟨_, _, _, rfl⟩

/-- Two instances, one of them running. -/
theorem witness_Instances :
    ∃ q r, Platform.stepAt ⟨[copying, State.reset]⟩ 0 = .next q ∧ q.stepAt 1 = .next r := ⟨_, _, rfl, rfl⟩

theorem witness_GroupEmits :
    (∀ t ∈ [ListingToken.lit 0x61, .bref 18 0], (∃ v, t = .lit v) ∨ ∃ len disp, t = .bref len disp) ∧
      ∃ bytes, assembleLine (.group [.lit 0x61, .bref 18 0]) = .ok bytes := by
  refine ⟨fun t ht => ?_, ⟨_, rfl⟩⟩
  rcases List.mem_pair.mp ht with rfl | rfl
  · exact Or.inl ⟨_, rfl⟩
  · exact Or.inr ⟨_, _, rfl⟩

theorem witness_ListingRefuses :
    (2 < 3 ∨ 18 < 2) ∧ (3 ≤ 18 ∧ 18 ≤ 18 ∧ 4095 < 4096) ∧ 2 ^ 24 ≤ 2 ^ 24 ∧ 255 < 256 ∧
      8 < (expandTokens [.lits ['A', 'B', 'C', 'D', 'E', 'F', 'G', 'H', 'I']]).length ∧
      (∃ r, assembleLine (.raw 256) = .error r) := by
  refine ⟨by decide, by decide, by decide, by decide, by decide, ⟨_, rfl⟩⟩

end Sys2Proof.Tests
end

section
/-!
The rules of commands and register accesses, then the statements about the register file, the commands and reset.
-/

namespace Sys2Proof.Machine

/-- The four command instructions are the commands of the four values of OP (R80). -/
theorem exists_commandInstr {i : Instr}
    (h : i = .decode ∨ i = .encode ∨ i = .hdrParse ∨ i = .hdrSerialize) : ∃ op, i = commandInstr op := by
  rcases h with rfl | rfl | rfl | rfl
  · exact ⟨.decode, rfl⟩
  · exact ⟨.encode, rfl⟩
  · exact ⟨.hdrParse, rfl⟩
  · exact ⟨.hdrSerialize, rfl⟩

/-- A command issued while BUSY is lost (R22). -/
theorem State.command_busy (op : Op) {s : State} (h : s.busy = true) : State.command op s = .next s := if_pos h

/-- A command of a launch that keeps the host's duty starts its operation (R22, R43). -/
theorem State.command_start {op : Op} {s : State} (hb : s.busy = false)
    (hl : launchRefusal s.cfg op s.inLen = none) :
    State.command op s = .next (State.startOperation op { s with op := op }) := by
  simp [State.command, hb, hl]

/-- If a command answers a next state, it was lost or it started its operation. -/
theorem State.command_next {op : Op} {s t : State} (h : State.command op s = .next t) :
    (s.busy = true ∧ t = s) ∨
      (s.busy = false ∧ launchRefusal s.cfg op s.inLen = none ∧
        t = State.startOperation op { s with op := op }) := by
  rcases State.command_cases op s with ⟨hb, he⟩ | ⟨r, _, _, he⟩ | ⟨hb, hl, he⟩
  · rw [he] at h
    cases h
    exact Or.inl ⟨hb, rfl⟩
  · rw [he] at h
    cases h
  · rw [he] at h
    cases h
    exact Or.inr ⟨hb, hl, rfl⟩

/-- BUSY is exactly the RUNNING status (R24). -/
theorem State.busy_iff (s : State) : s.busy = true ↔ s.status = .running := by
  cases hs : s.status <;> simp [State.busy, Status.busy, hs]

/-- OP takes bits 2:1 of the word written to CTRL (R21, R80). -/
theorem opBits_commandOp (w : Word) : (opBits (commandOp w)).toNat = w.toNat / 2 % 4 := by
  have h1 := Nat.mod_two_eq_zero_or_one (w.toNat / 2)
  have h2 := Nat.mod_two_eq_zero_or_one (w.toNat / 4)
  have b1 : w.getLsbD 1 = decide (w.toNat / 2 % 2 = 1) := by simp [BitVec.getLsbD, Nat.testBit_eq_decide_div_mod_eq]
  have b2 : w.getLsbD 2 = decide (w.toNat / 4 % 2 = 1) := by simp [BitVec.getLsbD, Nat.testBit_eq_decide_div_mod_eq]
  unfold commandOp
  rw [b1, b2]
  rcases h1 with h1 | h1 <;> rcases h2 with h2 | h2 <;> simp [h1, h2, opBits] <;> omega

/-- An aligned 32-bit read within the register space reads the register (R59). -/
theorem State.move_regRead {off : Nat} (h : registerAccessOk .bits32 off = true) (s : State) :
    State.move (.regRead .bits32 off) s = .next (s.regRead off) := if_pos h

/-- An aligned 32-bit write within the register space writes the register (R59). -/
theorem State.move_regWrite {off : Nat} (h : registerAccessOk .bits32 off = true) (w : Word) (s : State) :
    State.move (.regWrite .bits32 off w) s = s.regWrite off w := if_pos h

/-- A write of the CTRL word. -/
theorem State.move_writeCtrl (w : Word) (s : State) :
    State.move (.regWrite .bits32 0x00 w) s = s.writeCtrl w := State.move_regWrite (by decide) w s

/-- While not BUSY a result register reads as its value (R26). -/
theorem State.readResult_idle {s : State} (h : s.busy = false) (w : Word) : s.readResult w = s.returnWord w := by
  simp [State.readResult, h]

/-- While BUSY a result register reads as a fresh free value (R41). -/
theorem State.readResult_busy {s : State} (h : s.busy = true) (w : Word) : s.readResult w = s.returnFreeWord := if_pos h

/-- A write of CTRL while BUSY has no effect at all (R22). -/
theorem State.writeCtrl_busy {s : State} (h : s.busy = true) (w : Word) : s.writeCtrl w = .next s := by
  cases hw : commandStart w
  · rw [State.writeCtrl_noStart hw, if_pos h]
  · rw [State.writeCtrl_start hw, State.command_busy _ h]

/-- A write of a register other than CTRL and IN_LEN is ignored (R26). -/
theorem State.regWrite_ignored {off : Nat} (h0 : off ≠ 0x00) (h8 : off ≠ 0x08) (w : Word) (s : State) :
    s.regWrite off w = .next s := by
  simp [State.regWrite, h0, h8]

/-- Settles O12: the STATUS word of each status value, computed. -/
theorem statusWordEncodesOutcome : Obligations.StatusWordEncodesOutcome := by
  unfold Obligations.StatusWordEncodesOutcome
  decide

/-- Settles O13: the read is in the register space, and the result registers are not masked while not BUSY. -/
theorem registerReadReturnsValueWhenIdle : Obligations.RegisterReadReturnsValueWhenIdle := by
  intro s hb
  have result (w : Word) : s.readResult w = { s with rdata := w } := State.readResult_idle hb w
  refine ⟨rfl, rfl, rfl, ?_, ?_, ?_, rfl, rfl⟩
  · exact congrArg _ (result s.outLen)
  · exact congrArg _ (result s.inPos)
  · exact congrArg _ (result s.hdr)

/-- Settles O14: results and OUT bytes read as the next draw while BUSY. -/
theorem readWhileBusyIsFreeValue : Obligations.ReadWhileBusyIsFreeValue := by
  intro s hb
  have result (w : Word) : s.readResult w = { s with rdata := Config.freeWord s.draws, draws := s.draws + 1 } :=
    State.readResult_busy hb w
  refine ⟨rfl, ?_, rfl, ?_, ?_⟩
  · have hw : s.status.word = 0x00000001#32 := by
      rw [s.busy_iff.mp hb]
      decide
    rw [← hw]
    rfl
  · rintro off (rfl | rfl | rfl)
    · exact congrArg _ (result s.outLen)
    · exact congrArg _ (result s.inPos)
    · exact congrArg _ (result s.hdr)
  · intro off hoff
    simp only [State.move, State.atOffset, spaceSize, if_pos hoff, if_pos hb, State.returnFreeByte]

/-- Settles O15: a CTRL write is lost, an OP update or the command of the word's OP, by BUSY and START. -/
theorem controlWriteSetsOpAndStarts : Obligations.ControlWriteSetsOpAndStarts := by
  intro s w
  rw [State.move_writeCtrl]
  refine ⟨fun hb => State.writeCtrl_busy hb w, fun hb hw => ?_, fun hb hw => ?_⟩
  · refine ⟨{ s with op := commandOp w }, ?_, opBits_commandOp w, rfl⟩
    rw [State.writeCtrl_noStart hw]
    simp [hb]
  · refine ⟨commandInstr (commandOp w), if_pos hw, ?_, fun t ht => ?_⟩
    · rw [State.writeCtrl_start hw, exec_commandInstr]
    · rw [exec_commandInstr] at ht
      rcases State.command_next ht with ⟨hb', _⟩ | ⟨_, _, rfl⟩
      · simp [hb] at hb'
      · exact ⟨opBits_commandOp w, rfl, rfl, rfl⟩

/-- Settles O16: of the words other than CTRL a write reaches IN_LEN alone, and that one not while BUSY. -/
theorem onlyInLenTakesAWrite : Obligations.OnlyInLenTakesAWrite := by
  intro s w
  have inLen : State.move (.regWrite .bits32 0x08 w) s = .next (if s.busy then s else { s with inLen := w }) := rfl
  refine ⟨fun hb => ?_, fun hb => ?_, fun off hoff => ?_⟩
  · simp [inLen, hb]
  · simp [inLen, hb]
  · have hok : registerAccessOk .bits32 off = true := by
      rcases hoff with rfl | rfl | rfl | rfl | rfl | rfl <;> decide
    rw [State.move_regWrite hok, State.regWrite_ignored (by omega) (by omega)]

/-- Settles O20: every tabled register is read off the state after reset, and no window byte is known in it. -/
theorem resetStateHoldsTabledValues : Obligations.ResetStateHoldsTabledValues := by
  have inFree (k : Nat) : State.reset.inByte k = Config.freeInByte State.reset.inEpoch k := rfl
  have outFree (k : Nat) : State.reset.outByte k = Config.freeOutByte State.reset.outEpoch k := rfl
  exact ⟨rfl, by decide, rfl, rfl, rfl, rfl, rfl, rfl, rfl, rfl, rfl, rfl, inFree, outFree⟩

/-- Settles O22: a launch that keeps the duty of R54 and R55 is not refused, so the command starts its operation. -/
theorem commandStartsItsOperation : Obligations.CommandStartsItsOperation := by
  intro s i op ph hi hb hscope hlen
  obtain ⟨rfl, rfl⟩ : i = commandInstr op ∧ ph = startPhase op := by
    obtain ⟨rfl, rfl, rfl⟩ | ⟨rfl, rfl, rfl⟩ | ⟨rfl, rfl, rfl⟩ | ⟨rfl, rfl, rfl⟩ := hi <;> exact ⟨rfl, rfl⟩
  have hl : launchRefusal s.cfg op s.inLen = none :=
    (launchRefusal_none_iff _ _ _).mpr ⟨hscope, or_iff_not_imp_left.mpr hlen⟩
  rw [exec_commandInstr, State.command_start hb hl]
  rfl

/-- Settles O23: every command is the shared one, which tests BUSY first. -/
theorem commandWhileBusyIsLost : Obligations.CommandWhileBusyIsLost := by
  intro s i hi hb
  obtain ⟨op, rfl⟩ := exists_commandInstr hi
  rw [exec_commandInstr, State.command_busy op hb]

/-- Settles O44: a command that answers was lost or started its operation, and R43 writes none of these fields. -/
theorem commandFrame : Obligations.CommandFrame := by
  intro s t i hi ht
  obtain ⟨op, rfl⟩ := exists_commandInstr hi
  rw [exec_commandInstr] at ht
  rcases State.command_next ht with ⟨_, rfl⟩ | ⟨_, _, rfl⟩
  · simp
  · refine ⟨rfl, rfl, rfl, rfl, rfl, rfl, rfl, rfl, rfl, rfl, rfl, rfl, fun k => ?_, fun k => ?_⟩
    · exact State.inByte_congr rfl rfl k
    · exact State.outByte_congr rfl rfl k

end Sys2Proof.Machine
end

section
/-!
The equations of the stream elements as the engine meets them: what reading and running each one answers, one equation
per way it can end (R102 to R110, R117); and the small facts of the encoder's header and groups (R91, R131).
-/

namespace Sys2Proof.Machine

/-- HEADER with fewer than four bytes of input is truncated (R102). -/
theorem State.runElement_header_short {s : State} (h : s.n.toNat < 4) :
    s.runElement .header = .next (s.truncated .header) :=
  State.runElement_short (by simpa [State.elementOffset, elementBytes] using h)

/-- HEADER with the legal tag: L takes LEN and a flag byte comes next (R102). -/
theorem State.runElement_header_legal {s : State} (h : 4 ≤ s.n.toNat) (ht : headerTag s.headerWordIn = 0x10#8) :
    s.runElement .header =
      .next { s with
        estart := 0#32, ipos := 4#32, hdr := s.headerWordIn, l := headerLen s.headerWordIn, phase := .dReadFlag } := by
  rw [State.runElement_header h]
  simp only [exec, execHeader, if_neg (show ¬ s.n.toNat < 4 by omega), if_pos ht, headerWord_fields]
  rfl

/-- HEADER with another tag: UnsupportedFormat, with the word in HDR (R102). -/
theorem State.runElement_header_wrong_tag {s : State} (h : 4 ≤ s.n.toNat) (ht : headerTag s.headerWordIn ≠ 0x10#8) :
    s.runElement .header =
      .next (State.raise .unsupportedFormat { s with estart := 0#32, ipos := 4#32, hdr := s.headerWordIn }) := by
  rw [State.runElement_header h]
  simp only [exec, execHeader, if_neg (show ¬ s.n.toNat < 4 by omega), if_neg ht, headerWord_fields]
  rfl

/-- FLAG with no input left is truncated (R104). -/
theorem State.runElement_flag_short {s : State} (h : ¬ s.ipos.toNat < s.n.toNat) :
    s.runElement .flag = .next (s.truncated .flag) :=
  State.runElement_short (by simp only [State.elementOffset, elementBytes]; omega)

/-- FLAG with input left begins a group (R104). -/
theorem State.runElement_flag_begins {s : State} (h : s.ipos.toNat < s.n.toNat) :
    s.runElement .flag =
      .next { s with
        estart := s.ipos, flags := s.inByte s.ipos.toNat, ipos := s.ipos + 1, bit := 0#4, phase := .dToken } := by
  rw [State.runElement_flag h]
  exact if_neg (by omega)

/-- LIT with no input left is truncated (R106). -/
theorem State.runElement_lit_short {s : State} (h : ¬ s.ipos.toNat < s.n.toNat) :
    s.runElement .lit = .next (s.truncated .lit) :=
  State.runElement_short (by simp only [State.elementOffset, elementBytes]; omega)

/-- LIT with input left appends its byte and ends its token (R106). -/
theorem State.runElement_lit_appends {s : State} (h : s.ipos.toNat < s.n.toNat) :
    s.runElement .lit =
      State.emitThen (s.inByte s.ipos.toNat) State.postToken { s with estart := s.ipos, ipos := s.ipos + 1 } := by
  rw [State.runElement_lit h]
  exact if_neg (by omega)

/-- The copy source of the BREF at IPOS (R108). -/
def State.sourceIn (s : State) : Int := copySource s.olen (brefDisp s.infoIn)

/-- The number of bytes the BREF at IPOS copies (R109). -/
def State.countIn (s : State) : Nat := copyCount (brefTlen s.infoIn) s.l s.olen

/-- BREF with fewer than two bytes left is truncated, whatever its displacement (R107, R149). -/
theorem State.runElement_bref_short {s : State} (h : ¬ s.ipos.toNat + 2 ≤ s.n.toNat) :
    s.runElement .bref = .next (s.truncated .bref) :=
  State.runElement_short (by simp only [State.elementOffset, elementBytes]; omega)

/-- BREF with a source before the output's start is InvalidBackReference (R108). -/
theorem State.runElement_bref_invalid {s : State} (h : s.ipos.toNat + 2 ≤ s.n.toNat) (hp : s.sourceIn < 0) :
    s.runElement .bref =
      .next (State.raise .invalidBackReference { s with estart := s.ipos, ipos := s.ipos + 2 }) := by
  rw [State.runElement_bref h]
  exact (if_neg (by omega)).trans (if_pos hp)

/-- BREF with a source within the output sets up its copy (R109, R110). -/
theorem State.runElement_bref_copies {s : State} (h : s.ipos.toNat + 2 ≤ s.n.toNat) (hp : 0 ≤ s.sourceIn) :
    s.runElement .bref =
      .next { s with
        estart := s.ipos, ipos := s.ipos + 2, cptr := BitVec.ofInt 24 s.sourceIn, crem := BitVec.ofNat 5 s.countIn,
        cbulk := copyIsBulk s.sourceIn s.countIn s.olen, phase := .dCopy } := by
  rw [State.runElement_bref h]
  exact (if_neg (by omega)).trans (if_neg (by unfold State.sourceIn at hp; omega))

/-- A source within the output lies before OLEN, in CPTR's width as well (R108, R123). -/
theorem State.sourceIn_lt_olen {s : State} (hp : 0 ≤ s.sourceIn) :
    (BitVec.ofInt 24 s.sourceIn).toNat < s.olen.toNat := by
  have hsrc : s.sourceIn < s.olen.toNat := by
    unfold State.sourceIn copySource
    omega
  obtain ⟨ptr, hptr⟩ := Int.eq_ofNat_of_zero_le hp
  have hmod : ptr % 2 ^ 24 ≤ ptr := Nat.mod_le _ _
  rw [hptr] at hsrc ⊢
  rw [BitVec.ofInt_natCast, BitVec.toNat_ofNat]
  omega

/-- Where a token starts the copy has 1 to 18 bytes and ends by L (R109). -/
theorem State.countIn_range {s : State} (h : s.olen.toNat < s.l.toNat) :
    1 ≤ s.countIn ∧ s.countIn ≤ 18 ∧ s.olen.toNat + s.countIn ≤ s.l.toNat := by
  have hr := brefTlen_range s.infoIn
  unfold State.countIn copyCount
  omega

/-- The only error of a header's length is LengthOverflow (R91). -/
theorem serializeWord_error {m : LenOverflowMode} {n : Word} {e : ErrorCode} (h : serializeWord m n = .error e) :
    e = .lengthOverflow := by
  unfold serializeWord at h
  split at h
  · cases m <;> simp at h
    exact h.symm
  · cases h

/-- The size of a group fits GCNT: at most 8 of the literals left (R131). -/
theorem toNat_groupCount (n ipos : Word) :
    (BitVec.ofNat 4 (groupCount n ipos)).toNat = min 8 (n.toNat - ipos.toNat) := by
  rw [BitVec.toNat_ofNat]
  unfold groupCount
  omega

/-- A launch that keeps the duty has an OUT window with room for a header and an end below 2^32 (R54). -/
theorem outCap_of_launch {c : Config} {op : Op} {len : Word} (h : launchRefusal c op len = none) :
    4 ≤ c.outCap ∧ c.outCap < 2 ^ 32 := by
  obtain ⟨hscope, _⟩ := (launchRefusal_none_iff _ _ _).mp h
  obtain ⟨_, hlow, _, hhigh⟩ := (inScope_iff c).mp hscope
  omega

end Sys2Proof.Machine
end

section
/-!
The invariant, kept by every step (R25, R34, R36, R38, R39): one lemma per micro-step of the engine, one per kind of
host move, then the two statements about the invariant.
-/

namespace Sys2Proof.Machine

/-! The host's side: what belongs to the host alone, and the states with no running operation. -/

/-- The phase facts do not speak of the host's side of the state. -/
theorem PhaseInv.host {s : State} (h : PhaseInv s) (rdata : Word) (draws : Nat) (agenda : List Move) :
    PhaseInv { s with rdata := rdata, draws := draws, agenda := agenda } := by
  have decoding (p : Phase) (d : Decoding s) :
      Decoding { s with phase := p, rdata := rdata, draws := draws, agenda := agenda } := { d with }
  have encoding (p : Phase) (e : Encoding s) :
      Encoding { s with phase := p, rdata := rdata, draws := draws, agenda := agenda } := { e with }
  unfold PhaseInv at h ⊢
  cases hp : s.phase <;> simp only [hp] at h ⊢
  case hParse => exact h
  case hSer => exact h
  case dHeader => exact h
  case eHeader => exact h
  case dReadFlag => exact h.imp_left (decoding _)
  case dToken => exact h.imp_left (decoding _)
  case dCopy => exact h.imp_left (decoding _)
  case eFlag => exact h.imp_left (encoding _)
  case eLit => exact h.imp_left (encoding _)

/-- Nor does the invariant, so a read by the host keeps it. -/
theorem Inv.host {s : State} (h : Inv s) (rdata : Word) (draws : Nat) (agenda : List Move) :
    Inv { s with rdata := rdata, draws := draws, agenda := agenda } :=
  { h with phaseInv := h.phaseInv.host rdata draws agenda }

/-- An idle state is invariant if its windows and its result registers are sound. -/
theorem inv_of_idle {s : State} (w : WindowsSound s) (hp : s.phase = .idle) (hb : s.busy = false) (hr : ResultInv s) :
    Inv s where
  inWf := w.inWf
  inBound := w.inBound
  outWf := w.outWf
  outBound := w.outBound
  phaseStatus := by simp [hp, hb]
  launched := by simp [hb]
  phaseInv := by simp [PhaseInv, hp]
  resultInv := hr

/-- The state a reset leaves is invariant, whatever its parameters and host's side. -/
theorem inv_resetEvent (s : State) : Inv s.resetEvent :=
  inv_of_idle ⟨Memory.wf_nil, by simp [State.reset], Memory.wf_nil, by simp [State.reset]⟩ rfl rfl
    ⟨rfl, rfl, rfl⟩

/-- A command of an invariant state leaves an invariant state. -/
theorem inv_command {op : Op} {s t : State} (h : Inv s) (ht : State.command op s = .next t) : Inv t := by
  rcases State.command_next ht with ⟨_, rfl⟩ | ⟨_, hl, rfl⟩
  · exact h
  · have w : WindowsSound (State.startOperation op { s with op := op }) := { WindowsSound.of_inv s h with }
    refine inv_of_running w ?_ rfl rfl rfl hl ?_
    · cases op <;> simp [startPhase]
    · cases op with
      | decode => exact ⟨rfl, rfl⟩
      | encode => exact ⟨rfl, rfl⟩
      | hdrParse => exact rfl
      | hdrSerialize => exact rfl

/-- A write of CTRL keeps the invariant: it is lost, sets OP of an idle core, or is a command (R22). -/
theorem inv_writeCtrl {w : Word} {s t : State} (h : Inv s) (ht : s.writeCtrl w = .next t) : Inv t := by
  cases hw : commandStart w
  · rw [State.writeCtrl_noStart hw] at ht
    cases ht
    cases hb : s.busy
    · exact inv_of_idle { WindowsSound.of_inv s h with } (h.phaseStatus.mpr hb) hb h.resultInv
    · exact h
  · rw [State.writeCtrl_start hw] at ht
    exact inv_command h ht

/-- A register write keeps the invariant (R22, R26, R27). -/
theorem inv_regWrite {off : Nat} {w : Word} {s t : State} (h : Inv s) (ht : s.regWrite off w = .next t) : Inv t := by
  unfold State.regWrite at ht
  split_ifs at ht with h0 h8 hb
  · exact inv_writeCtrl h ht
  · cases ht
    exact h
  · cases ht
    have hb : s.busy = false := by simpa using hb
    exact inv_of_idle { WindowsSound.of_inv s h with } (h.phaseStatus.mpr hb) hb h.resultInv
  · cases ht
    exact h

/-- A host write of an IN byte of an idle core keeps the invariant (R60). -/
theorem inv_inWrite {a : Nat} {v : Byte} {s : State} (h : Inv s) (hb : s.busy = false) (ha : a < s.cfg.inCap) :
    Inv { s with inMem := s.inMem.set a v } := by
  refine inv_of_idle ⟨Memory.wf_set h.inWf a v, fun c hc => ?_, h.outWf, h.outBound⟩ (h.phaseStatus.mpr hb) hb
    h.resultInv
  rcases Memory.mem_set hc with rfl | hc
  · exact ha
  · exact h.inBound c hc

/-- A host write of an OUT byte of an idle core keeps the invariant: known bytes stay known (R60). -/
theorem inv_outWrite {a : Nat} {v : Byte} {s : State} (h : Inv s) (hb : s.busy = false) (ha : a < s.cfg.outCap) :
    Inv { s with outMem := s.outMem.set a v } := by
  refine inv_of_idle ⟨h.inWf, h.inBound, Memory.wf_set h.outWf a v, fun c hc => ?_⟩ (h.phaseStatus.mpr hb) hb ?_
  · rcases Memory.mem_set hc with rfl | hc
    · exact ha
    · exact h.outBound c hc
  · have hr := h.resultInv
    unfold ResultInv at hr ⊢
    cases hs : s.status <;> simp only [hs] at hr ⊢
    case idle => exact hr
    case failed e => exact hr
    case succeeded => exact hr.imp_left (fun known k hk => Memory.isSome_set v (Or.inr (known k hk)))

/-- If a window access answers a next state, its offset exists (R50). -/
theorem State.atOffset_next {sp : Space} {off : Nat} {s t : State} {k : Host.Outcome State Fault Refusal}
    (h : s.atOffset sp off k = .next t) : off < spaceSize s.cfg sp ∧ k = .next t := by
  unfold State.atOffset at h
  split at h
  · exact ⟨by assumption, h⟩
  · cases h

/-! The engine's side. -/

/-- What D_COPY says, of a state that is known to be in it. -/
theorem phaseInv_of_dCopy {s : State} (hp : s.phase = .dCopy) (d : Decoding s) (hb : s.bit.toNat < 8)
    (hc : s.cptr.toNat < s.olen.toNat) (h1 : 1 ≤ s.crem.toNat) (h18 : s.crem.toNat ≤ 18)
    (hl : s.olen.toNat + s.crem.toNat ≤ s.l.toNat) : PhaseInv s := by
  unfold PhaseInv
  rw [hp]
  exact ⟨d, hb, hc, h1, h18, hl⟩

/-- What E_LIT says, of a state that is known to be in it. -/
theorem phaseInv_of_eLit {s : State} (hp : s.phase = .eLit) (e : Encoding s)
    (ho : s.olen.toNat = 5 + s.ipos.toNat + s.ipos.toNat / 8)
    (hg : s.gcnt.toNat = min (8 - s.ipos.toNat % 8) (s.n.toNat - s.ipos.toNat)) (h1 : 1 ≤ s.gcnt.toNat) :
    PhaseInv s := by
  unfold PhaseInv
  rw [hp]
  exact ⟨e, ho, hg, h1⟩

/-- A running state is invariant if its windows, its launch and its phase are sound. -/
theorem inv_of_launched {s : State} (w : WindowsSound s) (r : Launched s) (hp : s.phase ≠ .idle) (hP : PhaseInv s) :
    Inv s :=
  inv_of_running w hp r.st r.op r.len r.launch hP

/-- Advancing the input pointer within the input keeps what holds past the header stage of DECODE (R34). -/
theorem Decoding.advance {s : State} (d : Decoding s) (ipos : Word) (hlow : s.ipos.toNat ≤ ipos.toNat)
    (hhigh : ipos.toNat ≤ s.n.toNat) : Decoding { s with ipos := ipos } :=
  { d with iposLow := d.iposLow.trans hlow, iposHigh := hhigh }

/-- Appending keeps what holds past the header stage of DECODE. -/
theorem Decoding.emit {s : State} (d : Decoding s) (v : Byte) (hm : s.olen.toNat + 1 < 2 ^ 32) : Decoding (s.emit v) :=
  { d with known := outKnown_emit d.known hm }

/-- Appending keeps what holds past the header stage of ENCODE. -/
theorem Encoding.emit {s : State} (e : Encoding s) (v : Byte) (hm : s.olen.toNat + 1 < 2 ^ 32) : Encoding (s.emit v) :=
  { e with known := outKnown_emit e.known hm }

/-- Appending keeps the launch. -/
theorem Launched.emit {s : State} (r : Launched s) (v : Byte) : Launched (s.emit v) := { r with }

/-- What follows a token of a group leaves an invariant state (R114 to R116). -/
theorem inv_postToken {s : State} (w : WindowsSound s) (r : Launched s) (d : Decoding s)
    (ho : s.olen.toNat ≤ s.l.toNat) (hb : s.bit.toNat < 8) : Inv s.postToken := by
  by_cases hd : s.olen.toNat = s.l.toNat
  · rw [State.postToken_done hd]
    exact inv_finishDecode { w with } { d with } hd
  · rw [State.postToken_goes_on hd]
    by_cases h8 : s.bit + 1 = 8#4
    · rw [if_pos h8]
      exact inv_of_launched { w with } { r with } (by simp) ⟨{ d with }, ho⟩
    · have hbit : (s.bit + 1).toNat < 8 := by bv_omega
      rw [if_neg h8]
      exact inv_of_launched { w with } { r with } (by simp)
        ⟨{ d with }, by show s.olen.toNat < s.l.toNat; omega, hbit⟩

/-- H_PARSE (R92). -/
theorem inv_hParseStep {s : State} (w : WindowsSound s) (hop : s.curOp = .hdrParse) : Inv s.hParseStep := by
  by_cases hn : s.n.toNat < 4
  · rw [State.hParseStep_short hn]
    exact inv_raise { w with } (by simp)
  by_cases ht : headerTag s.headerWordIn = 0x10#8
  · rw [State.hParseStep_header (by omega) ht]
    exact inv_finishOk { w with } (by simp [State.outKnown]) (by simp [hop])
  · rw [State.hParseStep_wrong_tag (by omega) ht]
    exact inv_raise { w with } (fun _ => ht)

/-- H_SER (R93). -/
theorem inv_hSerStep {s : State} (w : WindowsSound s) (r : Launched s) (hop : s.curOp = .hdrSerialize) :
    Inv s.hSerStep := by
  unfold State.hSerStep
  cases hw : serializeWord s.cfg.lenOverflow s.n with
  | error e =>
    obtain rfl := serializeWord_error hw
    exact inv_raise { w with } (by simp)
  | ok word =>
    exact inv_finishOk (windowsSound_writeHeader w (outCap_of_launch r.launch).1) outKnown_writeHeader (by simp [hop])

/-- D_HEADER (R102). -/
theorem inv_dHeader {s t : State} (w : WindowsSound s) (r : Launched s) (hop : s.curOp = .decode) (ho : s.olen = 0#32)
    (ht : s.runElement .header = .next t) : Inv t := by
  by_cases hn : s.n.toNat < 4
  · rw [State.runElement_header_short hn] at ht
    cases ht
    exact inv_truncated w
  have hn : 4 ≤ s.n.toNat := by omega
  by_cases htag : headerTag s.headerWordIn = 0x10#8
  · rw [State.runElement_header_legal hn htag] at ht
    cases ht
    refine inv_of_launched { w with } { r with } (by simp) ⟨⟨hop, by simp, hn, ?_, ?_⟩, ?_⟩
    · show s.headerWordIn = headerWord (headerLen s.headerWordIn) 0x10#8
      rw [← htag, headerWord_fields]
    · simp [State.outKnown, ho]
    · simp [ho]
  · rw [State.runElement_header_wrong_tag hn htag] at ht
    cases ht
    exact inv_raise { w with } (fun _ => htag)

/-- A flag byte read in D_READ_FLAG, where the output is not complete (R104). -/
theorem inv_flag {s t : State} (w : WindowsSound s) (r : Launched s) (d : Decoding s) (ho : s.olen.toNat < s.l.toNat)
    (ht : s.runElement .flag = .next t) : Inv t := by
  by_cases hn : s.ipos.toNat < s.n.toNat
  · have hip : (s.ipos + 1).toNat = s.ipos.toNat + 1 := toNat_add_one (by have := s.n.isLt; omega)
    rw [State.runElement_flag_begins hn] at ht
    cases ht
    exact inv_of_launched { w with } { r with } (by simp)
      ⟨{ d.advance (s.ipos + 1) (by omega) (by omega) with }, ho, by simp⟩
  · rw [State.runElement_flag_short hn] at ht
    cases ht
    exact inv_truncated w

/-- A literal token (R106, R114). -/
theorem inv_lit {s t : State} (w : WindowsSound s) (r : Launched s) (d : Decoding s) (ho : s.olen.toNat < s.l.toNat)
    (hb : s.bit.toNat < 8) (ht : s.runElement .lit = .next t) : Inv t := by
  by_cases hn : s.ipos.toNat < s.n.toNat
  · have hip : (s.ipos + 1).toNat = s.ipos.toNat + 1 := toNat_add_one (by have := s.n.isLt; omega)
    have hm : s.olen.toNat + 1 < 2 ^ 32 := by have := s.l.isLt; omega
    rw [State.runElement_lit_appends hn] at ht
    obtain ⟨hcap, rfl⟩ := State.emitThen_inv ht
    have d' : Decoding { s with estart := s.ipos, ipos := s.ipos + 1 } :=
      { d.advance (s.ipos + 1) (by omega) (by omega) with }
    have r' : Launched { s with estart := s.ipos, ipos := s.ipos + 1 } := { r with }
    refine inv_postToken (windowsSound_emit { w with } hcap) (r'.emit _) (d'.emit _ hm) ?_ hb
    simp only [State.emit_olen, State.emit_l, toNat_add_one hm]
    omega
  · rw [State.runElement_lit_short hn] at ht
    cases ht
    exact inv_truncated w

/-- A back-reference token sets up its copy or ends the operation (R107 to R110). -/
theorem inv_bref {s t : State} (w : WindowsSound s) (r : Launched s) (d : Decoding s) (ho : s.olen.toNat < s.l.toNat)
    (hb : s.bit.toNat < 8) (ht : s.runElement .bref = .next t) : Inv t := by
  by_cases hn : s.ipos.toNat + 2 ≤ s.n.toNat
  · have hip : (s.ipos + 2).toNat = s.ipos.toNat + 2 := toNat_add_two (by have := s.n.isLt; omega)
    by_cases hp : s.sourceIn < 0
    · rw [State.runElement_bref_invalid hn hp] at ht
      cases ht
      exact inv_raise { w with } (by simp)
    · have hp : 0 ≤ s.sourceIn := by omega
      obtain ⟨hc1, hc18, hcl⟩ := State.countIn_range ho
      have hcrem : (BitVec.ofNat 5 s.countIn).toNat = s.countIn := by
        rw [BitVec.toNat_ofNat]
        omega
      rw [State.runElement_bref_copies hn hp] at ht
      cases ht
      refine inv_of_launched { w with } { r with } (by simp)
        ⟨{ d.advance (s.ipos + 2) (by omega) (by omega) with }, hb, State.sourceIn_lt_olen hp, ?_⟩
      simpa only [hcrem] using ⟨hc1, hc18, hcl⟩
  · rw [State.runElement_bref_short hn] at ht
    cases ht
    exact inv_truncated w

/-- A COPY step moves one byte of a copy and, with the last one, ends its token (R114, R120). -/
theorem inv_copyStep {s t : State} (w : WindowsSound s) (r : Launched s) (hp : s.phase = .dCopy) (d : Decoding s)
    (hb : s.bit.toNat < 8) (hc : s.cptr.toNat < s.olen.toNat) (h1 : 1 ≤ s.crem.toNat) (h18 : s.crem.toNat ≤ 18)
    (hl : s.olen.toNat + s.crem.toNat ≤ s.l.toNat) (ht : s.copyStep = .next t) : Inv t := by
  have hm : s.olen.toNat + 1 < 2 ^ 32 := by have := s.l.isLt; omega
  have holen : (s.olen + 1).toNat = s.olen.toNat + 1 := toNat_add_one hm
  obtain ⟨hcap, rfl⟩ := State.emitThen_inv ht
  have w' := windowsSound_emit (v := s.outByte s.cptr.toNat) w hcap
  have r' := r.emit (s.outByte s.cptr.toNat)
  have d' := d.emit (s.outByte s.cptr.toNat) hm
  have decoding : Decoding { s.emit (s.outByte s.cptr.toNat) with cptr := s.cptr + 1, crem := s.crem - 1 } :=
    { d' with }
  unfold State.afterCopy
  dsimp only [State.emit_cptr, State.emit_crem]
  split_ifs with h0
  · refine inv_postToken { w' with } { r' with } decoding ?_ hb
    simp only [State.emit_olen, State.emit_l, holen]
    omega
  · have hcrem : (s.crem - 1).toNat = s.crem.toNat - 1 := by bv_omega
    have hcptr : (s.cptr + 1).toNat = s.cptr.toNat + 1 := by have := s.l.isLt; bv_omega
    refine inv_of_launched { w' with } { r' with } (by simp [hp]) (phaseInv_of_dCopy hp decoding hb ?_ ?_ ?_ ?_)
    · simp only [State.emit_olen, holen, hcptr]
      omega
    · bv_omega
    · simp only [hcrem]
      omega
    · simp only [State.emit_olen, State.emit_l, holen, hcrem]
      omega

/-- E_HEADER (R136). -/
theorem inv_eHeaderStep {s : State} (w : WindowsSound s) (r : Launched s) (hop : s.curOp = .encode)
    (hi : s.ipos = 0#32) : Inv s.eHeaderStep := by
  unfold State.eHeaderStep
  cases hw : serializeWord s.cfg.lenOverflow s.n with
  | error e =>
    obtain rfl := serializeWord_error hw
    exact inv_raise { w with } (by simp)
  | ok word =>
    have w' := windowsSound_writeHeader (w := word) w (outCap_of_launch r.launch).1
    have known : (s.writeHeader word).outKnown 4 := outKnown_writeHeader
    exact inv_of_launched { w' with } { r with } (by simp)
      ⟨⟨hop, by simp [hi], hw, known⟩, by simp [hi, ceilDiv], Or.inl (by simp [hi])⟩

/-- E_FLAG (R136). -/
theorem inv_eFlagStep {s t : State} (w : WindowsSound s) (r : Launched s) (e : Encoding s)
    (ho : s.olen.toNat = 4 + s.ipos.toNat + ceilDiv s.ipos.toNat 8) (hi : s.ipos.toNat % 8 = 0 ∨ s.ipos = s.n)
    (ht : s.eFlagStep = .next t) : Inv t := by
  unfold State.eFlagStep at ht
  split_ifs at ht with hn
  · cases ht
    exact inv_finishOk w e.known (by simp [e.curOp])
  · obtain ⟨hcap, rfl⟩ := State.emitThen_inv ht
    have hm : s.olen.toNat + 1 < 2 ^ 32 := by have := outCap_of_launch r.launch; omega
    have hlt : s.ipos.toNat < s.n.toNat := by have := e.iposHigh; bv_omega
    have h8 : s.ipos.toNat % 8 = 0 := hi.resolve_right hn
    have hg := toNat_groupCount s.n s.ipos
    have w' := windowsSound_emit (v := 0x00#8) w hcap
    have e' := e.emit 0x00#8 hm
    refine inv_of_launched { w' with } { r with } (by simp) ⟨{ e' with }, ?_, ?_, ?_⟩
    · simp only [State.emit_olen, State.emit_ipos, toNat_add_one hm]
      unfold ceilDiv at ho
      omega
    · simp only [State.emit_ipos, State.emit_n, hg]
      omega
    · simp only [hg]
      omega

/-- E_LIT (R136). -/
theorem inv_eLitStep {s t : State} (w : WindowsSound s) (r : Launched s) (hp : s.phase = .eLit) (e : Encoding s)
    (ho : s.olen.toNat = 5 + s.ipos.toNat + s.ipos.toNat / 8)
    (hg : s.gcnt.toNat = min (8 - s.ipos.toNat % 8) (s.n.toNat - s.ipos.toNat)) (h1 : 1 ≤ s.gcnt.toNat)
    (ht : s.eLitStep = .next t) : Inv t := by
  obtain ⟨hcap, rfl⟩ := State.emitThen_inv ht
  have hm : s.olen.toNat + 1 < 2 ^ 32 := by have := outCap_of_launch r.launch; omega
  have holen : (s.olen + 1).toNat = s.olen.toNat + 1 := toNat_add_one hm
  have hip : (s.ipos + 1).toNat = s.ipos.toNat + 1 := toNat_add_one (by have := s.n.isLt; omega)
  have hgcnt : (s.gcnt - 1).toNat = s.gcnt.toNat - 1 := by bv_omega
  have w' := windowsSound_emit (v := s.inByte s.ipos.toNat) w hcap
  have e' := e.emit (s.inByte s.ipos.toNat) hm
  have hle : (s.ipos + 1).toNat ≤ s.n.toNat := by omega
  unfold State.afterLiteral
  dsimp only [State.emit_ipos, State.emit_gcnt]
  split_ifs with h0
  · have hg1 : s.gcnt.toNat = 1 := by bv_omega
    refine inv_of_launched { w' with } { r with } (by simp) ⟨{ e' with iposHigh := hle }, ?_, ?_⟩
    · simp only [State.emit_olen, holen, hip]
      unfold ceilDiv
      omega
    · by_cases hend : s.ipos.toNat + 1 = s.n.toNat
      · exact Or.inr (BitVec.eq_of_toNat_eq (hip.trans hend))
      · refine Or.inl ?_
        simp only [hip]
        omega
  · have hg2 : 2 ≤ s.gcnt.toNat := by bv_omega
    refine inv_of_launched { w' with } { r with } (by simp [hp])
      (phaseInv_of_eLit hp { e' with iposHigh := hle } ?_ ?_ ?_)
    · simp only [State.emit_olen, holen, hip]
      omega
    · simp only [State.emit_n, hip, hgcnt]
      omega
    · simp only [hgcnt]
      omega

/-- Every engine step keeps the invariant: one lemma per phase. -/
theorem inv_engineStep {s t : State} (h : Inv s) (ht : s.engineStep = .next t) : Inv t := by
  rcases State.engineStep_next ht with ⟨_, rfl⟩ | ⟨hp, _, hs⟩
  · exact h
  have w := WindowsSound.of_inv s h
  have r := Launched.of_inv h hp
  have hP := h.phaseInv
  unfold State.phaseStep at hs
  unfold PhaseInv at hP
  cases hph : s.phase <;> simp only [hph] at hs hP
  case idle => exact absurd hph hp
  case hParse =>
    cases hs
    exact inv_hParseStep w hP
  case hSer =>
    cases hs
    exact inv_hSerStep w r hP
  case dHeader => exact inv_dHeader w r hP.1 hP.2 hs
  case dReadFlag =>
    obtain ⟨d, ho⟩ := hP
    split_ifs at hs with hd
    · cases hs
      exact inv_finishDecode w d hd
    · exact inv_flag w r d (by omega) hs
  case dToken =>
    obtain ⟨d, ho, hb⟩ := hP
    unfold tokenElement at hs
    split_ifs at hs
    · exact inv_bref w r d ho hb hs
    · exact inv_lit w r d ho hb hs
  case dCopy =>
    obtain ⟨d, hb, hc, h1, h18, hl⟩ := hP
    exact inv_copyStep w r hph d hb hc h1 h18 hl hs
  case eHeader =>
    cases hs
    exact inv_eHeaderStep w r hP.1 hP.2
  case eFlag =>
    obtain ⟨e, ho, hi⟩ := hP
    exact inv_eFlagStep w r e ho hi hs
  case eLit =>
    obtain ⟨e, ho, hg, h1⟩ := hP
    exact inv_eLitStep w r hph e ho hg h1 hs

/-- Every move of the agenda keeps the invariant. -/
theorem inv_move {m : Move} {s t : State} (h : Inv s) (ht : State.move m s = .next t) : Inv t := by
  unfold State.move at ht
  cases m with
  | engine => exact inv_engineStep h ht
  | reset =>
    cases ht
    exact inv_resetEvent s
  | regRead width off =>
    dsimp only at ht
    split_ifs at ht
    obtain ⟨rdata, draws, hr⟩ := State.regRead_side off s
    cases ht
    rw [hr]
    exact h.host rdata draws s.agenda
  | regWrite width off v =>
    dsimp only at ht
    split_ifs at ht
    exact inv_regWrite h ht
  | inRead off =>
    obtain ⟨_, ht⟩ := State.atOffset_next ht
    cases ht
    split_ifs
    · exact h.host _ _ _
    · exact h.host _ _ _
  | inWrite off v =>
    obtain ⟨hoff, ht⟩ := State.atOffset_next ht
    split_ifs at ht with hb
    cases ht
    exact inv_inWrite h (by simpa using hb) hoff
  | outRead off =>
    obtain ⟨_, ht⟩ := State.atOffset_next ht
    cases ht
    split_ifs
    · exact h.host _ _ _
    · exact h.host _ _ _
  | outWrite off v =>
    obtain ⟨hoff, ht⟩ := State.atOffset_next ht
    split_ifs at ht with hb
    cases ht
    exact inv_outWrite h (by simpa using hb) hoff

/-- Settles O51: a step is the engine's own or a move of the agenda, and either keeps the invariant. -/
theorem everyStepKeepsTheInvariant : Obligations.EveryStepKeepsTheInvariant := by
  intro s t h ht
  cases ha : s.agenda with
  | nil =>
    rw [step_engine ha] at ht
    exact inv_engineStep h ht
  | cons m rest =>
    rw [step_move ha] at ht
    exact inv_move (h.host s.rdata s.draws rest) ht

/-- Settles O50: no operation runs right after reset, no window byte is known and every result register is 0. -/
theorem resetMeetsTheInvariant : Obligations.ResetMeetsTheInvariant :=
  inv_of_idle ⟨Memory.wf_nil, by simp [State.reset], Memory.wf_nil, by simp [State.reset]⟩ rfl rfl
    ⟨rfl, rfl, rfl⟩

end Sys2Proof.Machine
end

section
/-!
Two runs side by side (R42): while both run, the parts of the two states that the result can depend on agree, phase by
phase; each engine step keeps this, and at the end the results are the same.
-/

namespace Sys2Proof.Machine

/-- Both OUT windows hold the same known bytes below a bound. -/
def SameOutput (s t : State) (bound : Nat) : Prop :=
  ∀ k, k < bound → ∃ v, s.outMem.get? k = some v ∧ t.outMem.get? k = some v

/-- What two runs of one operation agree on in every phase: the overflow mode, the input, and the output so far. -/
structure SameRun (s t : State) : Prop where
  running : s.status = .running ∧ t.status = .running
  mode : t.cfg.lenOverflow = s.cfg.lenOverflow
  n : t.n = s.n
  ipos : t.ipos = s.ipos
  olen : t.olen = s.olen
  hdr : t.hdr = s.hdr
  input : ∀ j, j < s.n.toNat → t.inByte j = s.inByte j
  output : SameOutput s t s.olen.toNat

/-- What the two runs also agree on by phase. START leaves L, FLAGS, BIT, CPTR, CREM and GCNT as they were (R43), so each
is listed only where it has been written; with it stands the bound its use rests on. -/
def PhaseAgrees (s t : State) : Prop :=
  match s.phase with
  | .idle => True
  | .hParse => True
  | .hSer => True
  | .dHeader => True
  | .dReadFlag => t.l = s.l
  | .dToken => t.l = s.l ∧ t.flags = s.flags ∧ t.bit = s.bit
  | .dCopy =>
    t.l = s.l ∧ t.flags = s.flags ∧ t.bit = s.bit ∧ t.cptr = s.cptr ∧ t.crem = s.crem ∧
      s.cptr.toNat < s.olen.toNat
  | .eHeader => s.ipos = 0#32
  | .eFlag => s.ipos.toNat ≤ s.n.toNat
  | .eLit => t.gcnt = s.gcnt ∧ 1 ≤ s.gcnt.toNat ∧ s.ipos.toNat + s.gcnt.toNat ≤ s.n.toNat

/-- Two runs in step: both ended with one result, or both in one phase and agreeing on what the result depends on. -/
inductive Lockstep (s t : State) : Prop
  | ended (hs : s.phase = .idle) (ht : t.phase = .idle) (h : s.result = t.result)
  | running (hp : t.phase = s.phase) (h : SameRun s t) (hP : PhaseAgrees s t)

/-- Runs in step have the same result, or none yet. -/
theorem Lockstep.result {s t : State} (h : Lockstep s t) : s.result = t.result := by
  cases h with
  | ended _ _ h => exact h
  | running _ h _ =>
    obtain ⟨hs, ht⟩ := h.running
    simp [State.result, hs, ht]

/-! The operations on the output and the ends. -/

/-- An output byte both runs know is the same byte. -/
theorem SameOutput.outByte {s t : State} {bound k : Nat} (h : SameOutput s t bound) (hk : k < bound) :
    t.outByte k = s.outByte k := by
  obtain ⟨v, hs, ht⟩ := h k hk
  rw [State.outByte_of_get? hs, State.outByte_of_get? ht]

/-- Appending one byte to both outputs keeps the runs in agreement. -/
theorem SameRun.emit {s t : State} (h : SameRun s t) (v : Byte) (hm : s.olen.toNat + 1 < 2 ^ 32) :
    SameRun (s.emit v) (t.emit v) := by
  refine { h with olen := congrArg (· + 1) h.olen, output := fun k hk => ?_ }
  simp only [State.emit_olen, State.emit_outMem, toNat_add_one hm, h.olen] at hk ⊢
  by_cases hx : k = s.olen.toNat
  · subst hx
    exact ⟨v, Memory.get?_set_self _ _ _, Memory.get?_set_self _ _ _⟩
  · rw [Memory.get?_set_other _ _ _ _ hx, Memory.get?_set_other _ _ _ _ hx]
    exact h.output k (by omega)

/-- Writing one header to both outputs makes their first four bytes the same. -/
theorem sameOutput_writeHeader (word : Word) (s t : State) :
    SameOutput (s.writeHeader word) (t.writeHeader word) 4 := by
  intro k hk
  have hlen : k < (le32 word).length := hk
  have written (m : Memory) : (m.setAll 0 (le32 word)).get? k = some (le32 word)[k] := by
    simpa using Memory.get?_setAll_self m 0 k (le32 word) hlen
  exact ⟨(le32 word)[k], written s.outMem, written t.outMem⟩

/-- One error of both runs, with one element start and header word, is one result. -/
theorem lockstep_raise {e : ErrorCode} {s t : State} (hh : t.hdr = s.hdr) (he : t.estart = s.estart) :
    Lockstep (State.raise e s) (State.raise e t) :=
  .ended rfl rfl (by simp [State.result, hh, he])

/-- Success of both runs with one set of result registers and the same output is one result. -/
theorem lockstep_finishOk {outLen inPos hdr : Word} {s t : State} (h : SameOutput s t outLen.toNat) :
    Lockstep (State.finishOk outLen inPos hdr s) (State.finishOk outLen inPos hdr t) := by
  have kept : SameOutput (State.finishOk outLen inPos hdr s) (State.finishOk outLen inPos hdr t) outLen.toNat := by
    intro k hk
    simpa [Memory.get?_below_of_lt _ hk] using h k hk
  refine .ended rfl rfl ?_
  have bytes : (State.finishOk outLen inPos hdr s).outBytes = (State.finishOk outLen inPos hdr t).outBytes :=
    List.map_congr_left (fun k hk => (kept.outByte (List.mem_range.mp hk)).symm)
  simp [State.result, bytes]

/-- The end of DECODE, where the output is complete (R116). -/
theorem lockstep_finishDecode {s t : State} (h : SameRun s t) (hl : t.l = s.l) (hd : s.olen.toNat = s.l.toNat) :
    Lockstep s.finishDecode t.finishDecode := by
  unfold State.finishDecode
  rw [hl, h.ipos, h.hdr]
  refine lockstep_finishOk ?_
  rw [toNat_zext_len, ← hd]
  exact h.output

/-- TruncatedInput at one element of both runs (R117). -/
theorem lockstep_truncated {s t : State} (h : SameRun s t) (e : Element) :
    Lockstep (s.truncated e) (t.truncated e) := by
  have start : t.elementOffset e = s.elementOffset e := by
    cases e <;> simp [State.elementOffset, h.ipos]
  exact lockstep_raise (s := s.beginElement e) (t := t.beginElement e) h.hdr start

/-- What follows a token keeps two runs in step (R114 to R116). -/
theorem lockstep_postToken {s t : State} (h : SameRun s t) (hl : t.l = s.l) (hf : t.flags = s.flags)
    (hb : t.bit = s.bit) :
    Lockstep s.postToken t.postToken := by
  by_cases hd : s.olen.toNat = s.l.toNat
  · rw [State.postToken_done hd, State.postToken_done (by rw [h.olen, hl, hd])]
    exact lockstep_finishDecode { h with } hl hd
  · rw [State.postToken_goes_on hd, State.postToken_goes_on (by rwa [h.olen, hl]), hb, hf]
    refine .running rfl { h with } ?_
    by_cases h8 : s.bit + 1 = 8#4
    · rw [if_pos h8]
      exact hl
    · rw [if_neg h8]
      exact ⟨hl, rfl, rfl⟩

/-! The micro-steps. -/

/-- Both runs see the same header word. -/
theorem SameRun.headerWordIn {s t : State} (h : SameRun s t) (hn : 4 ≤ s.n.toNat) :
    t.headerWordIn = s.headerWordIn := by
  unfold State.headerWordIn
  rw [h.input 0 (by omega), h.input 1 (by omega), h.input 2 (by omega), h.input 3 (by omega)]

/-- Both runs see the same back-reference. -/
theorem SameRun.infoIn {s t : State} (h : SameRun s t) (hn : s.ipos.toNat + 2 ≤ s.n.toNat) : t.infoIn = s.infoIn := by
  unfold State.infoIn
  rw [h.ipos, h.input _ (by omega), h.input _ (by omega)]

/-- H_PARSE (R92). -/
theorem lockstep_hParseStep {s t : State} (h : SameRun s t) : Lockstep s.hParseStep t.hParseStep := by
  by_cases hn : s.n.toNat < 4
  · rw [State.hParseStep_short hn, State.hParseStep_short (by rwa [h.n])]
    exact lockstep_raise h.hdr rfl
  have hn : 4 ≤ s.n.toNat := by omega
  have hw := h.headerWordIn hn
  by_cases htag : headerTag s.headerWordIn = 0x10#8
  · rw [State.hParseStep_header hn htag, State.hParseStep_header (by rwa [h.n]) (by rwa [hw]), hw]
    exact lockstep_finishOk (by simp [SameOutput])
  · rw [State.hParseStep_wrong_tag hn htag, State.hParseStep_wrong_tag (by rwa [h.n]) (by rwa [hw]), hw]
    exact lockstep_raise rfl rfl

/-- H_SER (R93). -/
theorem lockstep_hSerStep {s t : State} (h : SameRun s t) : Lockstep s.hSerStep t.hSerStep := by
  unfold State.hSerStep
  rw [h.mode, h.n]
  cases serializeWord s.cfg.lenOverflow s.n with
  | error e => exact lockstep_raise h.hdr rfl
  | ok word => exact lockstep_finishOk (sameOutput_writeHeader word s t)

/-- E_HEADER (R136). -/
theorem lockstep_eHeaderStep {s t : State} (h : SameRun s t) (hi : s.ipos = 0#32) :
    Lockstep s.eHeaderStep t.eHeaderStep := by
  unfold State.eHeaderStep
  rw [h.mode, h.n]
  cases serializeWord s.cfg.lenOverflow s.n with
  | error e => exact lockstep_raise h.hdr rfl
  | ok word =>
    refine .running rfl { h with olen := rfl, hdr := rfl, output := sameOutput_writeHeader word s t } ?_
    show s.ipos.toNat ≤ s.n.toNat
    simp [hi]

/-- D_HEADER (R102). -/
theorem lockstep_header {s t s' t' : State} (h : SameRun s t)
    (hs : s.runElement .header = .next s') (ht : t.runElement .header = .next t') : Lockstep s' t' := by
  by_cases hn : s.n.toNat < 4
  · rw [State.runElement_header_short hn] at hs
    rw [State.runElement_header_short (by rwa [h.n])] at ht
    cases hs
    cases ht
    exact lockstep_truncated h .header
  have hn : 4 ≤ s.n.toNat := by omega
  have hw := h.headerWordIn hn
  by_cases htag : headerTag s.headerWordIn = 0x10#8
  · rw [State.runElement_header_legal hn htag] at hs
    rw [State.runElement_header_legal (by rwa [h.n]) (by rwa [hw]), hw] at ht
    cases hs
    cases ht
    exact .running rfl { h with ipos := rfl, hdr := rfl } rfl
  · rw [State.runElement_header_wrong_tag hn htag] at hs
    rw [State.runElement_header_wrong_tag (by rwa [h.n]) (by rwa [hw]), hw] at ht
    cases hs
    cases ht
    exact lockstep_raise rfl rfl

/-- FLAG (R104). -/
theorem lockstep_flag {s t s' t' : State} (h : SameRun s t) (hl : t.l = s.l)
    (hs : s.runElement .flag = .next s') (ht : t.runElement .flag = .next t') : Lockstep s' t' := by
  by_cases hn : s.ipos.toNat < s.n.toNat
  · rw [State.runElement_flag_begins hn] at hs
    rw [State.runElement_flag_begins (by rwa [h.ipos, h.n]), h.ipos, h.input _ hn] at ht
    cases hs
    cases ht
    exact .running rfl { h with ipos := rfl } ⟨hl, rfl, rfl⟩
  · rw [State.runElement_flag_short hn] at hs
    rw [State.runElement_flag_short (by rwa [h.ipos, h.n])] at ht
    cases hs
    cases ht
    exact lockstep_truncated h .flag

/-- LIT (R106). -/
theorem lockstep_lit {s t s' t' : State} (h : SameRun s t) (hcap : s.cfg.outCap < 2 ^ 32) (hl : t.l = s.l)
    (hf : t.flags = s.flags) (hb : t.bit = s.bit)
    (hs : s.runElement .lit = .next s') (ht : t.runElement .lit = .next t') : Lockstep s' t' := by
  by_cases hn : s.ipos.toNat < s.n.toNat
  · rw [State.runElement_lit_appends hn] at hs
    rw [State.runElement_lit_appends (by rwa [h.ipos, h.n]), h.ipos, h.input _ hn] at ht
    obtain ⟨ho, rfl⟩ := State.emitThen_inv hs
    obtain ⟨_, rfl⟩ := State.emitThen_inv ht
    have taken : SameRun { s with estart := s.ipos, ipos := s.ipos + 1 }
        { t with estart := s.ipos, ipos := s.ipos + 1 } := { h with ipos := rfl }
    exact lockstep_postToken (taken.emit _ (Nat.lt_of_le_of_lt ho hcap)) hl hf hb
  · rw [State.runElement_lit_short hn] at hs
    rw [State.runElement_lit_short (by rwa [h.ipos, h.n])] at ht
    cases hs
    cases ht
    exact lockstep_truncated h .lit

/-- BREF (R107 to R110). -/
theorem lockstep_bref {s t s' t' : State} (h : SameRun s t) (hl : t.l = s.l) (hf : t.flags = s.flags)
    (hb : t.bit = s.bit) (hs : s.runElement .bref = .next s') (ht : t.runElement .bref = .next t') : Lockstep s' t' := by
  by_cases hn : s.ipos.toNat + 2 ≤ s.n.toNat
  · have hnt : t.ipos.toNat + 2 ≤ t.n.toNat := by rwa [h.ipos, h.n]
    have source : t.sourceIn = s.sourceIn := by simp only [State.sourceIn, h.infoIn hn, h.olen]
    have count : t.countIn = s.countIn := by simp only [State.countIn, h.infoIn hn, h.olen, hl]
    by_cases hp : s.sourceIn < 0
    · rw [State.runElement_bref_invalid hn hp] at hs
      rw [State.runElement_bref_invalid hnt (by rwa [source])] at ht
      cases hs
      cases ht
      exact lockstep_raise h.hdr h.ipos
    · have hp : 0 ≤ s.sourceIn := by omega
      rw [State.runElement_bref_copies hn hp] at hs
      rw [State.runElement_bref_copies hnt (by rwa [source]), source, count, h.ipos] at ht
      cases hs
      cases ht
      exact .running rfl { h with ipos := rfl } ⟨hl, hf, hb, rfl, rfl, State.sourceIn_lt_olen hp⟩
  · rw [State.runElement_bref_short hn] at hs
    rw [State.runElement_bref_short (by rwa [h.ipos, h.n])] at ht
    cases hs
    cases ht
    exact lockstep_truncated h .bref

/-- COPY (R120): the source byte is one of the output bytes the runs agree on. -/
theorem lockstep_copyStep {s t s' t' : State} (h : SameRun s t) (hcap : s.cfg.outCap < 2 ^ 32) (hp : t.phase = s.phase)
    (hph : s.phase = .dCopy) (hl : t.l = s.l) (hf : t.flags = s.flags) (hb : t.bit = s.bit) (hc : t.cptr = s.cptr)
    (hr : t.crem = s.crem) (hlt : s.cptr.toNat < s.olen.toNat)
    (hs : s.copyStep = .next s') (ht : t.copyStep = .next t') : Lockstep s' t' := by
  have byte : t.outByte t.cptr.toNat = s.outByte s.cptr.toNat := by
    rw [hc]
    exact h.output.outByte hlt
  unfold State.copyStep at hs ht
  rw [byte] at ht
  obtain ⟨ho, rfl⟩ := State.emitThen_inv hs
  obtain ⟨_, rfl⟩ := State.emitThen_inv ht
  have hm : s.olen.toNat + 1 < 2 ^ 32 := by omega
  have moved := h.emit (s.outByte s.cptr.toNat) hm
  unfold State.afterCopy
  dsimp only [State.emit_cptr, State.emit_crem]
  rw [hr, hc]
  split_ifs with h0
  · exact lockstep_postToken { moved with } hl hf hb
  · refine .running hp { moved with } ?_
    have next : (s.cptr + 1).toNat < (s.olen + 1).toNat := by
      rw [toNat_add_one hm]
      bv_omega
    simp only [PhaseAgrees, State.emit_phase, hph]
    exact ⟨hl, hf, hb, trivial, trivial, next⟩

/-- E_FLAG (R136). -/
theorem lockstep_eFlagStep {s t s' t' : State} (h : SameRun s t) (hcap : s.cfg.outCap < 2 ^ 32)
    (hi : s.ipos.toNat ≤ s.n.toNat) (hs : s.eFlagStep = .next s') (ht : t.eFlagStep = .next t') : Lockstep s' t' := by
  unfold State.eFlagStep at hs ht
  rw [h.ipos, h.n] at ht
  split_ifs at hs ht with hn
  · rw [h.olen, h.hdr] at ht
    cases hs
    cases ht
    exact lockstep_finishOk h.output
  · obtain ⟨ho, rfl⟩ := State.emitThen_inv hs
    obtain ⟨_, rfl⟩ := State.emitThen_inv ht
    have hlt : s.ipos.toNat < s.n.toNat := by bv_omega
    have hg := toNat_groupCount s.n s.ipos
    refine .running rfl { h.emit 0x00#8 (by omega) with } ⟨rfl, ?_, ?_⟩
    · simp only [hg]
      omega
    · simp only [hg, State.emit_ipos, State.emit_n]
      omega

/-- E_LIT (R136). -/
theorem lockstep_eLitStep {s t s' t' : State} (h : SameRun s t) (hcap : s.cfg.outCap < 2 ^ 32) (hp : t.phase = s.phase)
    (hph : s.phase = .eLit) (hg : t.gcnt = s.gcnt) (h1 : 1 ≤ s.gcnt.toNat)
    (hi : s.ipos.toNat + s.gcnt.toNat ≤ s.n.toNat) (hs : s.eLitStep = .next s') (ht : t.eLitStep = .next t') :
    Lockstep s' t' := by
  unfold State.eLitStep at hs ht
  rw [h.ipos, h.input _ (by omega)] at ht
  obtain ⟨ho, rfl⟩ := State.emitThen_inv hs
  obtain ⟨_, rfl⟩ := State.emitThen_inv ht
  have moved := h.emit (s.inByte s.ipos.toNat) (by omega)
  have hip : (s.ipos + 1).toNat = s.ipos.toNat + 1 := toNat_add_one (by have := s.n.isLt; omega)
  unfold State.afterLiteral
  dsimp only [State.emit_ipos, State.emit_gcnt]
  rw [hg, h.ipos]
  split_ifs with h0
  · refine .running rfl { moved with ipos := rfl } ?_
    show (s.ipos + 1).toNat ≤ s.n.toNat
    omega
  · refine .running hp { moved with ipos := rfl } ?_
    have left : (s.gcnt - 1).toNat = s.gcnt.toNat - 1 := by bv_omega
    have more : 2 ≤ s.gcnt.toNat := by bv_omega
    simp only [PhaseAgrees, State.emit_phase, State.emit_n, hph, hip, left]
    exact ⟨trivial, by omega, by omega⟩

/-! The runs. -/

/-- An engine step of both runs keeps them in step. -/
theorem lockstep_engineStep {s t s' t' : State} (h : Lockstep s t) (hs : s.engineStep = .next s')
    (ht : t.engineStep = .next t') : Lockstep s' t' := by
  cases h with
  | ended hps hpt hr =>
    rw [State.engineStep_idle hps] at hs
    rw [State.engineStep_idle hpt] at ht
    cases hs
    cases ht
    exact .ended hps hpt hr
  | running hp h hP =>
    rcases State.engineStep_next hs with ⟨hps, rfl⟩ | ⟨hps, hls, hs⟩ <;>
      rcases State.engineStep_next ht with ⟨hpt, rfl⟩ | ⟨hpt, _, ht⟩
    · exact .running hp h hP
    · exact absurd (hp.trans hps) hpt
    · exact absurd (hp.symm.trans hpt) hps
    have hcap := (outCap_of_launch hls).2
    have agrees := hP
    unfold State.phaseStep at hs ht
    unfold PhaseAgrees at agrees
    rw [hp] at ht
    cases hph : s.phase <;> simp only [hph] at hs ht agrees
    case idle => exact absurd hph hps
    case hParse =>
      cases hs
      cases ht
      exact lockstep_hParseStep h
    case hSer =>
      cases hs
      cases ht
      exact lockstep_hSerStep h
    case dHeader => exact lockstep_header h hs ht
    case dReadFlag =>
      rw [h.olen, agrees] at ht
      split_ifs at hs ht with hd
      · cases hs
        cases ht
        exact lockstep_finishDecode h agrees hd
      · exact lockstep_flag h agrees hs ht
    case dToken =>
      obtain ⟨hl, hf, hb⟩ := agrees
      unfold tokenElement at hs ht
      rw [hf] at ht
      split_ifs at hs ht
      · exact lockstep_bref h hl hf hb hs ht
      · exact lockstep_lit h hcap hl hf hb hs ht
    case dCopy =>
      obtain ⟨hl, hf, hb, hc, hr, hlt⟩ := agrees
      exact lockstep_copyStep h hcap hp hph hl hf hb hc hr hlt hs ht
    case eHeader =>
      cases hs
      cases ht
      exact lockstep_eHeaderStep h agrees
    case eFlag => exact lockstep_eFlagStep h hcap agrees hs ht
    case eLit =>
      obtain ⟨hg, h1, hi⟩ := agrees
      exact lockstep_eLitStep h hcap hp hph hg h1 hi hs ht

/-- A run of k + 1 engine steps is one step and a run of k. -/
theorem engineRun_succ {k : Nat} {s u : State} (h : engineRun (k + 1) s = .next u) :
    ∃ t, s.engineStep = .next t ∧ engineRun k t = .next u := by
  simp only [engineRun] at h
  split at h
  · exact ⟨_, by assumption, h⟩
  · cases h
  · cases h

/-- Runs in step stay so for any number of engine steps. -/
theorem lockstep_engineRun {k : Nat} {s t u v : State} (h : Lockstep s t) (hs : engineRun k s = .next u)
    (ht : engineRun k t = .next v) : Lockstep u v := by
  induction k generalizing s t with
  | zero =>
    cases hs
    cases ht
    exact h
  | succ k ih =>
    obtain ⟨s', hs1, hs⟩ := engineRun_succ hs
    obtain ⟨t', ht1, ht⟩ := engineRun_succ ht
    exact ih (lockstep_engineStep h hs1 ht1) hs ht

/-- Two launches of one operation on the same input begin in step. -/
theorem lockstep_startOperation (op : Op) {s t : State} (hm : t.cfg.lenOverflow = s.cfg.lenOverflow)
    (hn : t.inLen = s.inLen) (hi : ∀ j, j < s.inLen.toNat → t.inByte j = s.inByte j) :
    Lockstep (State.startOperation op { s with op := op }) (State.startOperation op { t with op := op }) := by
  refine .running rfl ⟨⟨rfl, rfl⟩, hm, hn, rfl, rfl, rfl, hi, by simp [SameOutput]⟩ ?_
  cases op with
  | decode => trivial
  | encode => rfl
  | hdrParse => trivial
  | hdrSerialize => trivial

/-- Settles O30: the two launches begin in step, and stay in step to their results. -/
theorem resultDependsOnlyOnTheInput : Obligations.ResultDependsOnlyOnTheInput := by
  intro s₁ s₂ t₁ t₂ u₁ u₂ i k hi hb₁ hb₂ hmode hlen hinput ht₁ ht₂ hu₁ hu₂
  obtain ⟨op, rfl⟩ := exists_commandInstr hi
  rw [exec_commandInstr] at ht₁ ht₂
  obtain ⟨hb, _⟩ | ⟨_, _, rfl⟩ := State.command_next ht₁
  · simp [hb₁] at hb
  obtain ⟨hb, _⟩ | ⟨_, _, rfl⟩ := State.command_next ht₂
  · simp [hb₂] at hb
  have start := lockstep_startOperation op hmode.symm hlen.symm (fun j hj => (hinput j hj).symm)
  exact (lockstep_engineRun start hu₁ hu₂).result

end Sys2Proof.Machine
end

section
/-!
Byte orders and field layouts (R12, R56, R71 to R76): four header bytes and their word, two back-reference bytes and their
info, the fields of each, and the flag bits in the order they select; then the statements about stream bytes.
-/

namespace Sys2Proof

/-- The header word as a number: the first byte is the least significant (R12, R56). -/
theorem toNat_fromLE32 (b0 b1 b2 b3 : Byte) :
    (fromLE32 b0 b1 b2 b3).toNat = b0.toNat + 256 * b1.toNat + 65536 * b2.toNat + 16777216 * b3.toNat := by
  unfold fromLE32
  rw [BitVec.toNat_append, BitVec.toNat_append, BitVec.toNat_append, ← Nat.shiftLeft_add_eq_or_of_lt b0.isLt,
    ← Nat.shiftLeft_add_eq_or_of_lt b1.isLt, ← Nat.shiftLeft_add_eq_or_of_lt b2.isLt]
  omega

/-- A back-reference's info as a number: the first byte is the more significant (R12, R56). -/
theorem toNat_fromBE16 (c0 c1 : Byte) : (fromBE16 c0 c1).toNat = 256 * c0.toNat + c1.toNat := by
  unfold fromBE16
  rw [BitVec.toNat_append, ← Nat.shiftLeft_add_eq_or_of_lt c1.isLt]
  omega

/-- The bytes of a header word are the four it was made from. -/
theorem le32_fromLE32 (b0 b1 b2 b3 : Byte) : le32 (fromLE32 b0 b1 b2 b3) = [b0, b1, b2, b3] := by
  have byte (k : Nat) (b : Byte) (h : (fromLE32 b0 b1 b2 b3).toNat / 2 ^ k % 2 ^ 8 = b.toNat) :
      (fromLE32 b0 b1 b2 b3).extractLsb' k 8 = b :=
    BitVec.eq_of_toNat_eq (by rw [BitVec.extractLsb'_toNat, Nat.shiftRight_eq_div_pow, h])
  have h := toNat_fromLE32 b0 b1 b2 b3
  unfold le32
  rw [byte 0 b0 (by omega), byte 8 b1 (by omega), byte 16 b2 (by omega), byte 24 b3 (by omega)]

/-- The bytes of a back-reference's info are the two it was made from. -/
theorem be16_fromBE16 (c0 c1 : Byte) : be16 (fromBE16 c0 c1) = [c0, c1] := by
  have high : (fromBE16 c0 c1).extractLsb' 8 8 = c0 := BitVec.extractLsb'_append_eq_left
  have low : (fromBE16 c0 c1).extractLsb' 0 8 = c1 := BitVec.extractLsb'_append_eq_right
  simp only [be16, high, low]

/-- An info word is made of its TLEN and DISP (R76). -/
theorem brefInfo_fields (info : BitVec 16) : brefInfo (brefTlen info) (brefDisp info) = info := by
  have length : (brefTlen info - 3#5).setWidth 4 = info.extractLsb' 12 4 := by
    simp [brefTlen]
  unfold brefInfo
  rw [length]
  exact (BitVec.extractLsb'_append_extractLsb'_eq_extractLsb' rfl).trans BitVec.extractLsb'_eq_self

/-- Settles O2: each element's fields make its word again, and that word's bytes are the ones read. -/
theorem decodedElementReencodesToItsBytes : Obligations.DecodedElementReencodesToItsBytes := by
  intro e bytes rest i h
  unfold decodeElement at h
  split at h <;> cases h
  case h_1 b0 b1 b2 b3 =>
    refine ⟨[b0, b1, b2, b3], ?_, rfl, rfl⟩
    simp only [encodeInstr, headerWord_fields, le32_fromLE32]
  case h_3 f => exact ⟨[f], rfl, rfl, rfl⟩
  case h_5 v => exact ⟨[v], rfl, rfl, rfl⟩
  case h_7 c0 c1 =>
    refine ⟨[c0, c1], ?_, rfl, rfl⟩
    simp only [encodeInstr, brefInfo_fields, be16_fromBE16]

end Sys2Proof

namespace Sys2Proof.Machine

/-- After j tokens of a group FLAGS has shifted by j (R114). -/
theorem flagShift_iterate (f : Byte) (j : Nat) : flagShift^[j] f = f <<< j := by
  induction j with
  | zero => simp
  | succ j ih => rw [Function.iterate_succ_apply', ih, flagShift, BitVec.shiftLeft_add]

/-- Settles O8: the header's and the back-reference's byte order are laws of the words, and the j-th shift of FLAGS brings
bit 7 - j to the top. -/
theorem byteOrderIsFixed : Obligations.ByteOrderIsFixed := by
  refine ⟨fun b0 b1 b2 b3 => ?_, fun c0 c1 => ?_, fun f j hj => ?_⟩
  · exact ⟨toNat_fromLE32 b0 b1 b2 b3, le32_fromLE32 b0 b1 b2 b3, headerTag_fromLE32 b0 b1 b2 b3⟩
  · exact ⟨toNat_fromBE16 c0 c1, be16_fromBE16 c0 c1⟩
  · have hj' : ¬ 7 < j := by omega
    rw [flagShift_iterate, flagSelectsBref, BitVec.getLsbD_shiftLeft]
    simp [hj']

end Sys2Proof.Machine
end

section
/-!
What the host may do with registers, windows and launches (R50, R54, R55, R59, R60, R66): when an access or a launch is
refused or faults, and what a window reads as after a write.
-/

namespace Sys2Proof.Machine

/-! Register accesses. -/

/-- The register accesses the model gives a step (R59). -/
theorem registerAccessOk_iff (width : AccessWidth) (off : Nat) :
    registerAccessOk width off = true ↔ width = .bits32 ∧ off % 4 = 0 ∧ off < 0x20 := by
  simp only [registerAccessOk, Bool.and_eq_true, decide_eq_true_eq, and_assoc]

/-- A write of any register but CTRL has a next state (R26, R27). -/
theorem State.regWrite_next {off : Nat} (h : off ≠ 0x00) (w : Word) (s : State) :
    ∃ t, s.regWrite off w = .next t := by
  by_cases h8 : off = 0x08
  · subst h8
    exact ⟨_, rfl⟩
  · exact ⟨s, State.regWrite_ignored h h8 w s⟩

/-- Settles O17: the moves test R59's rules first; within them only CTRL can answer otherwise than with a next state. -/
theorem registerAccessOutsideRulesIsRefused : Obligations.RegisterAccessOutsideRulesIsRefused := by
  intro s width off w
  refine ⟨fun hbad => ?_, fun hwidth halign hoff => ?_⟩
  · have hno : ¬ registerAccessOk width off = true := by
      rw [registerAccessOk_iff]
      rintro ⟨hwidth, halign, hoff⟩
      rcases hbad with h | h | h
      · exact h hwidth
      · exact h halign
      · omega
    exact ⟨if_neg hno, if_neg hno⟩
  · have hok : registerAccessOk width off = true := (registerAccessOk_iff width off).mpr ⟨hwidth, halign, hoff⟩
    subst hwidth
    refine ⟨⟨s.regRead off, State.move_regRead hok s⟩, fun hctrl => ?_⟩
    rw [State.move_regWrite hok]
    exact State.regWrite_next hctrl w s

/-! Window accesses. -/

/-- An access at an offset that exists goes on (R50). -/
theorem State.atOffset_inside {sp : Space} {off : Nat} {s : State} (h : off < spaceSize s.cfg sp)
    (k : Host.Outcome State Fault Refusal) : s.atOffset sp off k = k := if_pos h

/-- An access at an offset that does not exist faults (R50). -/
theorem State.atOffset_outside {sp : Space} {off : Nat} {s : State} (h : spaceSize s.cfg sp ≤ off)
    (k : Host.Outcome State Fault Refusal) : s.atOffset sp off k = .fault (.hostWindowOffset sp) :=
  if_neg (Nat.not_lt.mpr h)

/-- While not BUSY an IN byte is written (R60). -/
theorem State.move_inWrite_idle {s : State} {a : Nat} (hb : s.busy = false) (ha : a < s.cfg.inCap) (v : Byte) :
    State.move (.inWrite a v) s = .next { s with inMem := s.inMem.set a v } :=
  (State.atOffset_inside ha _).trans (if_neg (by simp [hb]))

/-- While not BUSY an OUT byte is written (R60). -/
theorem State.move_outWrite_idle {s : State} {a : Nat} (hb : s.busy = false) (ha : a < s.cfg.outCap) (v : Byte) :
    State.move (.outWrite a v) s = .next { s with outMem := s.outMem.set a v } :=
  (State.atOffset_inside ha _).trans (if_neg (by simp [hb]))

/-- While not BUSY an IN byte is read as it stands (R60). -/
theorem State.move_inRead_idle {s : State} {a : Nat} (hb : s.busy = false) (ha : a < s.cfg.inCap) :
    State.move (.inRead a) s = .next (s.returnWord ((s.inByte a).setWidth 32)) :=
  (State.atOffset_inside ha _).trans (congrArg _ (if_neg (by simp [hb])))

/-- While not BUSY an OUT byte is read as it stands (R60, R68). -/
theorem State.move_outRead_idle {s : State} {a : Nat} (hb : s.busy = false) (ha : a < s.cfg.outCap) :
    State.move (.outRead a) s = .next (s.returnWord ((s.outByte a).setWidth 32)) :=
  (State.atOffset_inside ha _).trans (congrArg _ (if_neg (by simp [hb])))

/-- The IN byte written is the one read. -/
theorem State.inByte_set_self (s : State) (a : Nat) (v : Byte) :
    ({ s with inMem := s.inMem.set a v } : State).inByte a = v := by
  simp only [State.inByte, Memory.get?_set_self]

/-- A write of one IN byte leaves every other alone. -/
theorem State.inByte_set_other (s : State) {a k : Nat} (h : k ≠ a) (v : Byte) :
    ({ s with inMem := s.inMem.set a v } : State).inByte k = s.inByte k := by
  simp only [State.inByte, Memory.get?_set_other _ _ _ _ h]

/-- The OUT byte written is the one read. -/
theorem State.outByte_set_self (s : State) (a : Nat) (v : Byte) :
    ({ s with outMem := s.outMem.set a v } : State).outByte a = v := by
  simp only [State.outByte, Memory.get?_set_self]

/-- A write of one OUT byte leaves every other alone. -/
theorem State.outByte_set_other (s : State) {a k : Nat} (h : k ≠ a) (v : Byte) :
    ({ s with outMem := s.outMem.set a v } : State).outByte k = s.outByte k := by
  simp only [State.outByte, Memory.get?_set_other _ _ _ _ h]

/-- Settles O18: the write changes one cell of one window, and the read returns that cell. -/
theorem windowWriteIsReadBackWhenIdle : Obligations.WindowWriteIsReadBackWhenIdle := by
  intro s a v hb
  refine ⟨fun ha => ?_, fun ha => ?_⟩
  · refine ⟨_, State.move_inWrite_idle hb ha v, ?_, fun k hk => State.inByte_set_other s hk v, rfl⟩
    have read := State.move_inRead_idle (s := { s with inMem := s.inMem.set a v }) hb ha
    rwa [State.inByte_set_self] at read
  · refine ⟨_, State.move_outWrite_idle hb ha v, ?_, fun k hk => State.outByte_set_other s hk v, rfl⟩
    have read := State.move_outRead_idle (s := { s with outMem := s.outMem.set a v }) hb ha
    rwa [State.outByte_set_self] at read

/-- Settles O19: a window move tests its offset first, and a write then tests BUSY. -/
theorem windowAccessOutsideRulesStops : Obligations.WindowAccessOutsideRulesStops := by
  intro s a v
  refine ⟨fun hb ha => ?_, fun hb ha => ?_, fun ha => ?_, fun ha => ?_⟩
  · exact (State.atOffset_inside ha _).trans (if_pos hb)
  · exact (State.atOffset_inside ha _).trans (if_pos hb)
  · exact ⟨State.atOffset_outside ha _, State.atOffset_outside ha _⟩
  · exact ⟨State.atOffset_outside ha _, State.atOffset_outside ha _⟩

/-! Launches. -/

/-- Every launch under parameters that break R54 is refused (R55). -/
theorem launchRefusal_of_outOfScope {c : Config} (h : inScope c = false) (op : Op) (len : Word) :
    launchRefusal c op len = some .parametersOutOfScope := if_pos h

/-- A launch that reads more input than the IN window holds is refused (R55). -/
theorem launchRefusal_of_inCap_lt {c : Config} {op : Op} {len : Word} (hscope : inScope c = true)
    (hop : op ≠ .hdrSerialize) (hlen : c.inCap < len.toNat) : launchRefusal c op len = some .inLenOverCapacity :=
  (if_neg (by simp [hscope])).trans (if_pos ⟨hop, hlen⟩)

/-- While not BUSY a command answers the refusal its launch carries. -/
theorem State.command_refused {op : Op} {s : State} {r : Refusal} (hb : s.busy = false)
    (hr : launchRefusal s.cfg op s.inLen = some r) : State.command op s = .refused r := by
  simp [State.command, hb, hr]

/-- So does a running engine. -/
theorem State.engineStep_refused {s : State} {r : Refusal} (hp : s.phase ≠ .idle)
    (hr : launchRefusal s.cfg s.curOp s.n = some r) : s.engineStep = .refused r := by
  simp [State.engineStep, hp, hr]

/-- Settles O24: the refusal a broken launch carries is what its command and its engine answer. -/
theorem brokenLaunchIsRefused : Obligations.BrokenLaunchIsRefused := by
  intro s
  refine ⟨fun hb hscope hlen i hi => ?_, fun hb hscope i hi => ?_, fun hp hscope => ?_, fun hp hscope hop hlen => ?_⟩
  · obtain ⟨op, rfl, hop⟩ : ∃ op, i = commandInstr op ∧ op ≠ .hdrSerialize := by
      rcases hi with rfl | rfl | rfl
      · exact ⟨.decode, rfl, by decide⟩
      · exact ⟨.encode, rfl, by decide⟩
      · exact ⟨.hdrParse, rfl, by decide⟩
    rw [exec_commandInstr]
    exact State.command_refused hb (launchRefusal_of_inCap_lt hscope hop hlen)
  · obtain ⟨op, rfl⟩ := exists_commandInstr hi
    rw [exec_commandInstr]
    exact State.command_refused hb (launchRefusal_of_outOfScope hscope op _)
  · exact State.engineStep_refused hp (launchRefusal_of_outOfScope hscope _ _)
  · exact State.engineStep_refused hp (launchRefusal_of_inCap_lt hscope hop hlen)

/-- Settles O25: the constraint's third item read in each overflow mode. -/
theorem instanceScopeIsTheCapacityConstraint : Obligations.InstanceScopeIsTheCapacityConstraint := by
  intro c
  rw [inScope_iff]
  cases hm : c.lenOverflow with
  | reject =>
    have hmax : eMax c = min c.inCap (2 ^ 24 - 1) := by simp only [eMax, hm]
    simp only [hmax, ceilDiv, forall_const, reduceCtorEq, false_imp_iff, and_true]
    omega
  | truncate =>
    have hmax : eMax c = c.inCap := by simp only [eMax, hm]
    simp only [hmax, ceilDiv, forall_const, reduceCtorEq, false_imp_iff, true_and]
    omega

end Sys2Proof.Machine
end

section
/-!
What no engine step writes (R27, R51, R53): the frame of each shared operation, of each stream element and of each phase.
-/

namespace Sys2Proof.Machine

/-- The IN window of the frame, byte by byte. -/
theorem EngineFrame.inByte {s t : State} (h : EngineFrame s t) (k : Nat) : t.inByte k = s.inByte k :=
  State.inByte_congr h.inMem h.inEpoch k

/-! The shared operations. -/

theorem EngineFrame.refl (s : State) : EngineFrame s s := ⟨rfl, rfl, rfl, rfl, rfl, rfl, rfl, rfl, rfl, rfl⟩

theorem EngineFrame.raise {s t : State} (h : EngineFrame s t) (e : ErrorCode) : EngineFrame s (State.raise e t) :=
  { h with }

theorem EngineFrame.finishOk {s t : State} (h : EngineFrame s t) (outLen inPos hdr : Word) :
    EngineFrame s (State.finishOk outLen inPos hdr t) := { h with }

theorem EngineFrame.emit {s t : State} (h : EngineFrame s t) (v : Byte) : EngineFrame s (t.emit v) := { h with }

theorem EngineFrame.beginElement (e : Element) (s : State) : EngineFrame s (s.beginElement e) :=
  { EngineFrame.refl s with }

theorem EngineFrame.truncated (e : Element) (s : State) : EngineFrame s (s.truncated e) :=
  (EngineFrame.beginElement e s).raise .truncatedInput

theorem EngineFrame.writeHeader (word : Word) (s : State) : EngineFrame s (s.writeHeader word) :=
  { EngineFrame.refl s with }

theorem EngineFrame.postToken {s t : State} (h : EngineFrame s t) : EngineFrame s t.postToken := by
  by_cases hd : t.olen.toNat = t.l.toNat
  · rw [State.postToken_done hd]
    exact { h with }
  · rw [State.postToken_goes_on hd]
    exact { h with }

/-- If appending and going on answers a next state, it keeps the frame if what follows does. -/
theorem engineFrame_emitThen {v : Byte} {k : State → State} {s m t : State} (h : EngineFrame s m)
    (hk : ∀ u, EngineFrame s u → EngineFrame s (k u)) (ht : State.emitThen v k m = .next t) : EngineFrame s t := by
  obtain ⟨_, rfl⟩ := State.emitThen_inv ht
  exact hk _ (h.emit v)

/-! The stream elements. -/

theorem engineFrame_execHeader {len : BitVec 24} {tag : Byte} {s t : State} (ht : execHeader len tag s = .next t) :
    EngineFrame s t := by
  unfold execHeader at ht
  split_ifs at ht
  · cases ht
    exact EngineFrame.truncated .header s
  · cases ht
    exact { EngineFrame.refl s with }
  · cases ht
    exact { EngineFrame.refl s with }

theorem engineFrame_execFlag {f : Byte} {s t : State} (ht : execFlag f s = .next t) : EngineFrame s t := by
  unfold execFlag at ht
  split_ifs at ht
  · cases ht
    exact EngineFrame.truncated .flag s
  · cases ht
    exact { EngineFrame.refl s with }

theorem engineFrame_execLit {v : Byte} {s t : State} (ht : execLit v s = .next t) : EngineFrame s t := by
  unfold execLit at ht
  split_ifs at ht
  · cases ht
    exact EngineFrame.truncated .lit s
  · have taken : EngineFrame s { s.beginElement .lit with ipos := s.ipos + 1 } := { EngineFrame.refl s with }
    exact engineFrame_emitThen taken (fun _ h => h.postToken) ht

theorem engineFrame_execBref {tlen : BitVec 5} {disp : BitVec 12} {s t : State} (ht : execBref tlen disp s = .next t) :
    EngineFrame s t := by
  unfold execBref at ht
  dsimp only at ht
  split_ifs at ht
  · cases ht
    exact EngineFrame.truncated .bref s
  · cases ht
    exact { EngineFrame.refl s with }
  · cases ht
    exact { EngineFrame.refl s with }

/-- Reading and running an element keeps the frame: it is the instruction its bytes decode to, or TruncatedInput. -/
theorem engineFrame_runElement {e : Element} {s t : State} (ht : s.runElement e = .next t) : EngineFrame s t := by
  unfold State.runElement at ht
  cases hd : decodeElement e (s.available e) with
  | error r =>
    rw [hd] at ht
    cases ht
    exact EngineFrame.truncated e s
  | ok p =>
    obtain ⟨i, rest⟩ := p
    rw [hd] at ht
    unfold decodeElement at hd
    split at hd <;> cases hd
    · exact engineFrame_execHeader ht
    · exact engineFrame_execFlag ht
    · exact engineFrame_execLit ht
    · exact engineFrame_execBref ht

/-! The other phases. -/

theorem engineFrame_hParseStep (s : State) : EngineFrame s s.hParseStep := by
  unfold State.hParseStep
  dsimp only
  split_ifs
  · exact { EngineFrame.refl s with }
  · exact { EngineFrame.refl s with }
  · exact { EngineFrame.refl s with }

theorem engineFrame_hSerStep (s : State) : EngineFrame s s.hSerStep := by
  unfold State.hSerStep
  cases serializeWord s.cfg.lenOverflow s.n with
  | error e => exact { EngineFrame.refl s with }
  | ok word => exact (EngineFrame.writeHeader word s).finishOk 4#32 0#32 word

theorem engineFrame_copyStep {s t : State} (ht : s.copyStep = .next t) : EngineFrame s t := by
  refine engineFrame_emitThen (EngineFrame.refl s) (fun u h => ?_) ht
  have moved : EngineFrame s { u with cptr := u.cptr + 1, crem := u.crem - 1 } := { h with }
  unfold State.afterCopy
  dsimp only
  split_ifs
  · exact moved.postToken
  · exact moved

theorem engineFrame_eHeaderStep (s : State) : EngineFrame s s.eHeaderStep := by
  unfold State.eHeaderStep
  cases serializeWord s.cfg.lenOverflow s.n with
  | error e => exact { EngineFrame.refl s with }
  | ok word => exact { EngineFrame.writeHeader word s with }

theorem engineFrame_eFlagStep {s t : State} (ht : s.eFlagStep = .next t) : EngineFrame s t := by
  unfold State.eFlagStep at ht
  split_ifs at ht
  · cases ht
    exact (EngineFrame.refl s).finishOk s.olen s.n s.hdr
  · refine engineFrame_emitThen (EngineFrame.refl s) (fun u h => ?_) ht
    exact { h with }

theorem engineFrame_eLitStep {s t : State} (ht : s.eLitStep = .next t) : EngineFrame s t := by
  refine engineFrame_emitThen (EngineFrame.refl s) (fun u h => ?_) ht
  unfold State.afterLiteral
  dsimp only
  split_ifs
  · exact { h with }
  · exact { h with }

/-- Every phase's step keeps the frame. -/
theorem engineFrame_phaseStep {s t : State} (ht : s.phaseStep = .next t) : EngineFrame s t := by
  unfold State.phaseStep at ht
  cases hp : s.phase <;> simp only [hp] at ht
  case idle =>
    cases ht
    exact EngineFrame.refl s
  case hParse =>
    cases ht
    exact engineFrame_hParseStep s
  case hSer =>
    cases ht
    exact engineFrame_hSerStep s
  case dHeader => exact engineFrame_runElement ht
  case dReadFlag =>
    split_ifs at ht
    · cases ht
      exact (EngineFrame.refl s).finishOk (s.l.setWidth 32) s.ipos s.hdr
    · exact engineFrame_runElement ht
  case dToken => exact engineFrame_runElement ht
  case dCopy => exact engineFrame_copyStep ht
  case eHeader =>
    cases ht
    exact engineFrame_eHeaderStep s
  case eFlag => exact engineFrame_eFlagStep ht
  case eLit => exact engineFrame_eLitStep ht

/-- Settles O45: an engine that answers was idle or took the step of its phase, and either keeps the frame. -/
theorem engineNeverWritesItsInput : Obligations.EngineNeverWritesItsInput := by
  intro s t ht
  have frame : EngineFrame s t := by
    rcases State.engineStep_next ht with ⟨_, rfl⟩ | ⟨_, _, hs⟩
    · exact EngineFrame.refl t
    · exact engineFrame_phaseStep hs
  exact ⟨frame, frame.inByte⟩

end Sys2Proof.Machine
end

section
/-!
The output is append-only (R38, R52): what a step may do to OUT, the shared operations that do it, and one lemma per
micro-step.
-/

namespace Sys2Proof.Machine

/-- The operation still runs, and of the output at most the byte at OLEN was written (R52). -/
structure Grown (s t : State) : Prop where
  running : t.status = .running
  epoch : t.outEpoch = s.outEpoch
  low : s.olen.toNat ≤ t.olen.toNat
  high : t.olen.toNat ≤ s.olen.toNat + 1
  out : ∀ k, k ≠ s.olen.toNat → t.outMem.get? k = s.outMem.get? k

/-- What an append-only step may do to the output: grow it by at most the byte at OLEN and run on, or end with success
and leave the other bytes below OUT_LEN. After an error no OUT byte is specified (R68). -/
structure AppendOnly (s t : State) : Prop where
  running : t.phase ≠ .idle →
    s.olen.toNat ≤ t.olen.toNat ∧ t.olen.toNat ≤ s.olen.toNat + 1 ∧ ∀ k, k ≠ s.olen.toNat → t.outByte k = s.outByte k
  succeeded : t.status = .succeeded →
    ∀ k, k < t.outLen.toNat → k ≠ s.olen.toNat → t.outByte k = s.outByte k

/-! The shared operations. -/

theorem Grown.refl {s : State} (h : s.status = .running) : Grown s s := ⟨h, rfl, le_rfl, by omega, fun _ _ => rfl⟩

/-- Appending a byte grows the output by it. -/
theorem grown_emit {s : State} (h : s.status = .running) (hm : s.olen.toNat + 1 < 2 ^ 32) (v : Byte) :
    Grown s (s.emit v) := by
  have holen : (s.emit v).olen.toNat = s.olen.toNat + 1 := toNat_add_one hm
  exact ⟨h, rfl, by omega, by omega, fun k hk => Memory.get?_set_other _ _ _ _ hk⟩

/-- Grown output reads as before but for the byte at OLEN. -/
theorem Grown.outByte {s t : State} (h : Grown s t) {k : Nat} (hk : k ≠ s.olen.toNat) : t.outByte k = s.outByte k := by
  simp only [State.outByte, h.out k hk, h.epoch]

/-- Running on with grown output is append-only. -/
theorem Grown.appendOnly {s t : State} (h : Grown s t) : AppendOnly s t where
  running := fun _ => ⟨h.low, h.high, fun _ => h.outByte⟩
  succeeded := fun hs => by simp [h.running] at hs

/-- An error specifies no OUT byte (R146). -/
theorem appendOnly_raise (e : ErrorCode) (s t : State) : AppendOnly s (State.raise e t) where
  running := fun hp => absurd rfl hp
  succeeded := fun hs => by simp at hs

/-- Success leaves every known byte below OUT_LEN as it was (R45, R68). -/
theorem State.outByte_finishOk {outLen inPos hdr : Word} {s : State} {k : Nat} (hk : k < outLen.toNat)
    (known : (s.outMem.get? k).isSome = true) : (State.finishOk outLen inPos hdr s).outByte k = s.outByte k := by
  obtain ⟨v, hv⟩ := Option.isSome_iff_exists.mp known
  rw [State.outByte_of_get? hv, State.outByte_of_get? ((Memory.get?_below_of_lt _ hk).trans hv)]

/-- Success of grown output, known up to OUT_LEN, is append-only. -/
theorem Grown.appendOnly_finishOk {s t : State} (h : Grown s t) {outLen : Word} (known : t.outKnown outLen.toNat)
    (inPos hdr : Word) : AppendOnly s (State.finishOk outLen inPos hdr t) where
  running := fun hp => absurd rfl hp
  succeeded := fun _ k hk ho => (State.outByte_finishOk hk (known k hk)).trans (h.outByte ho)

/-- The end of DECODE, where the output is complete (R116). -/
theorem Grown.appendOnly_finishDecode {s t : State} (h : Grown s t) (known : t.outKnown t.olen.toNat)
    (hd : t.olen.toNat = t.l.toNat) : AppendOnly s t.finishDecode :=
  h.appendOnly_finishOk (by rwa [toNat_zext_len, ← hd]) t.ipos t.hdr

/-- What follows a token writes no byte (R114 to R116). -/
theorem Grown.appendOnly_postToken {s t : State} (h : Grown s t) (known : t.outKnown t.olen.toNat) :
    AppendOnly s t.postToken := by
  by_cases hd : t.olen.toNat = t.l.toNat
  · rw [State.postToken_done hd]
    have g : Grown s { t with flags := flagShift t.flags, bit := t.bit + 1 } := { h with }
    exact g.appendOnly_finishDecode known hd
  · rw [State.postToken_goes_on hd]
    exact Grown.appendOnly { h with }

/-- Appending and going on is append-only if what follows is, from any grown output that is all known. -/
theorem appendOnly_emitThen {v : Byte} {k : State → State} {s t : State} (r : Launched s)
    (known : s.outKnown s.olen.toNat) (hk : ∀ u, Grown s u → u.outKnown u.olen.toNat → AppendOnly s (k u))
    (ht : State.emitThen v k s = .next t) : AppendOnly s t := by
  obtain ⟨hcap, rfl⟩ := State.emitThen_inv ht
  have hm : s.olen.toNat + 1 < 2 ^ 32 := by have := outCap_of_launch r.launch; omega
  exact hk _ (grown_emit r.st hm v) (outKnown_emit known hm)

/-! The micro-steps. -/

/-- H_PARSE ends with no output (R92). -/
theorem appendOnly_hParseStep {s : State} (r : Launched s) : AppendOnly s s.hParseStep := by
  by_cases hn : s.n.toNat < 4
  · rw [State.hParseStep_short hn]
    exact appendOnly_raise _ _ _
  by_cases ht : headerTag s.headerWordIn = 0x10#8
  · rw [State.hParseStep_header (by omega) ht]
    have g : Grown s { s with estart := 0#32, ipos := 4#32, hdr := s.headerWordIn } := { Grown.refl r.st with }
    exact g.appendOnly_finishOk (by simp [State.outKnown]) _ _
  · rw [State.hParseStep_wrong_tag (by omega) ht]
    exact appendOnly_raise _ _ _

/-- HEADER writes no byte (R102). -/
theorem appendOnly_header {s t : State} (r : Launched s) (ht : s.runElement .header = .next t) : AppendOnly s t := by
  by_cases hn : s.n.toNat < 4
  · rw [State.runElement_header_short hn] at ht
    cases ht
    exact appendOnly_raise _ _ _
  by_cases htag : headerTag s.headerWordIn = 0x10#8
  · rw [State.runElement_header_legal (by omega) htag] at ht
    cases ht
    exact Grown.appendOnly { Grown.refl r.st with }
  · rw [State.runElement_header_wrong_tag (by omega) htag] at ht
    cases ht
    exact appendOnly_raise _ _ _

/-- FLAG writes no byte (R104). -/
theorem appendOnly_flag {s t : State} (r : Launched s) (ht : s.runElement .flag = .next t) : AppendOnly s t := by
  by_cases hn : s.ipos.toNat < s.n.toNat
  · rw [State.runElement_flag_begins hn] at ht
    cases ht
    exact Grown.appendOnly { Grown.refl r.st with }
  · rw [State.runElement_flag_short hn] at ht
    cases ht
    exact appendOnly_raise _ _ _

/-- LIT appends its byte (R106). -/
theorem appendOnly_lit {s t : State} (r : Launched s) (known : s.outKnown s.olen.toNat)
    (ht : s.runElement .lit = .next t) : AppendOnly s t := by
  by_cases hn : s.ipos.toNat < s.n.toNat
  · rw [State.runElement_lit_appends hn] at ht
    have r' : Launched { s with estart := s.ipos, ipos := s.ipos + 1 } := { r with }
    exact { appendOnly_emitThen r' known (fun _ g => g.appendOnly_postToken) ht with }
  · rw [State.runElement_lit_short hn] at ht
    cases ht
    exact appendOnly_raise _ _ _

/-- BREF writes no byte itself: it sets up the copy (R107 to R110). -/
theorem appendOnly_bref {s t : State} (r : Launched s) (ht : s.runElement .bref = .next t) : AppendOnly s t := by
  by_cases hn : s.ipos.toNat + 2 ≤ s.n.toNat
  · by_cases hp : s.sourceIn < 0
    · rw [State.runElement_bref_invalid hn hp] at ht
      cases ht
      exact appendOnly_raise _ _ _
    · rw [State.runElement_bref_copies hn (by omega)] at ht
      cases ht
      exact Grown.appendOnly { Grown.refl r.st with }
  · rw [State.runElement_bref_short hn] at ht
    cases ht
    exact appendOnly_raise _ _ _

/-- COPY appends its byte (R120). -/
theorem appendOnly_copyStep {s t : State} (r : Launched s) (known : s.outKnown s.olen.toNat)
    (ht : s.copyStep = .next t) : AppendOnly s t := by
  refine appendOnly_emitThen r known (fun u g hu => ?_) ht
  have moved : Grown s { u with cptr := u.cptr + 1, crem := u.crem - 1 } := { g with }
  unfold State.afterCopy
  dsimp only
  split_ifs
  · exact moved.appendOnly_postToken hu
  · exact moved.appendOnly

/-- E_FLAG appends its flag byte or ends with the output so far (R136). -/
theorem appendOnly_eFlagStep {s t : State} (r : Launched s) (known : s.outKnown s.olen.toNat)
    (ht : s.eFlagStep = .next t) : AppendOnly s t := by
  unfold State.eFlagStep at ht
  split_ifs at ht
  · cases ht
    exact (Grown.refl r.st).appendOnly_finishOk known _ _
  · refine appendOnly_emitThen r known (fun u g _ => ?_) ht
    exact Grown.appendOnly { g with }

/-- E_LIT appends its literal (R136). -/
theorem appendOnly_eLitStep {s t : State} (r : Launched s) (known : s.outKnown s.olen.toNat)
    (ht : s.eLitStep = .next t) : AppendOnly s t := by
  refine appendOnly_emitThen r known (fun u g _ => ?_) ht
  unfold State.afterLiteral
  dsimp only
  split_ifs
  · exact Grown.appendOnly { g with }
  · exact Grown.appendOnly { g with }

/-- Every engine step outside H_SER and E_HEADER is append-only. -/
theorem appendOnly_engineStep {s t : State} (h : Inv s) (hp : s.phase ≠ .idle) (hser : s.phase ≠ .hSer)
    (henc : s.phase ≠ .eHeader) (ht : s.engineStep = .next t) : AppendOnly s t := by
  have r := Launched.of_inv h hp
  have hP := h.phaseInv
  rw [State.engineStep_launched r.launch] at ht
  unfold State.phaseStep at ht
  unfold PhaseInv at hP
  cases hph : s.phase <;> simp only [hph] at ht hP
  case idle => exact absurd hph hp
  case hSer => exact absurd hph hser
  case eHeader => exact absurd hph henc
  case hParse =>
    cases ht
    exact appendOnly_hParseStep r
  case dHeader => exact appendOnly_header r ht
  case dReadFlag =>
    obtain ⟨d, _⟩ := hP
    split_ifs at ht with hd
    · cases ht
      exact (Grown.refl r.st).appendOnly_finishDecode d.known hd
    · exact appendOnly_flag r ht
  case dToken =>
    obtain ⟨d, _⟩ := hP
    unfold tokenElement at ht
    split_ifs at ht
    · exact appendOnly_bref r ht
    · exact appendOnly_lit r d.known ht
  case dCopy =>
    obtain ⟨d, _⟩ := hP
    exact appendOnly_copyStep r d.known ht
  case eFlag =>
    obtain ⟨e, _⟩ := hP
    exact appendOnly_eFlagStep r e.known ht
  case eLit =>
    obtain ⟨e, _⟩ := hP
    exact appendOnly_eLitStep r e.known ht

/-- Settles O46: the two parts of an append-only step. -/
theorem outputIsAppendOnly : Obligations.OutputIsAppendOnly := by
  intro s t h hp hser henc ht
  obtain ⟨running, succeeded⟩ := appendOnly_engineStep h hp hser henc ht
  exact ⟨running, succeeded⟩

end Sys2Proof.Machine
end

section
/-!
The encoder meets the decoder (R71 to R76, R80, R86): four bytes make a header word again and two an info, the fields of an info
made from them, and the command words; then what the decoder answers, for each element and each number of bytes.
-/

namespace Sys2Proof

/-- The four bytes of a word make that word again (R12). -/
theorem fromLE32_le32 (w : Word) :
    fromLE32 (w.extractLsb' 0 8) (w.extractLsb' 8 8) (w.extractLsb' 16 8) (w.extractLsb' 24 8) = w := by
  apply BitVec.eq_of_toNat_eq
  simp only [toNat_fromLE32, BitVec.extractLsb'_toNat, Nat.shiftRight_eq_div_pow]
  omega

/-- The two bytes of an info make that info again (R12, R56). -/
theorem fromBE16_be16 (info : BitVec 16) : fromBE16 (info.extractLsb' 8 8) (info.extractLsb' 0 8) = info :=
  (BitVec.extractLsb'_append_extractLsb'_eq_extractLsb' rfl).trans BitVec.extractLsb'_eq_self

/-- TLEN as a number (R76): the sum does not wrap. -/
theorem toNat_brefTlen (info : BitVec 16) : (brefTlen info).toNat = 3 + info.toNat / 4096 := by
  have field : (info.extractLsb' 12 4).toNat = info.toNat / 4096 := by
    rw [BitVec.extractLsb'_toNat, Nat.shiftRight_eq_div_pow]
    omega
  rw [brefTlen, BitVec.toNat_add, BitVec.toNat_setWidth, field, BitVec.toNat_ofNat]
  omega

/-- DISP as a number (R76). -/
theorem toNat_brefDisp (info : BitVec 16) : (brefDisp info).toNat = info.toNat % 4096 := by
  rw [brefDisp, BitVec.extractLsb'_toNat, Nat.shiftRight_zero]

/-- The info made from a legal length and a displacement, as a number (R86). -/
theorem toNat_brefInfo {tlen : BitVec 5} (low : 3 ≤ tlen.toNat) (high : tlen.toNat ≤ 18) (disp : BitVec 12) :
    (brefInfo tlen disp).toNat = 4096 * (tlen.toNat - 3) + disp.toNat := by
  have field : ((tlen - 3#5).setWidth 4).toNat = tlen.toNat - 3 := by
    have noBorrow : 3#5 ≤ tlen := BitVec.le_def.mpr low
    rw [BitVec.toNat_setWidth, BitVec.toNat_sub_of_le noBorrow, BitVec.toNat_ofNat]
    omega
  rw [brefInfo, BitVec.toNat_append, ← Nat.shiftLeft_add_eq_or_of_lt disp.isLt, field, Nat.shiftLeft_eq]
  omega

/-- TLEN of the info made from a legal length is that length (R76, R86). -/
theorem brefTlen_brefInfo {tlen : BitVec 5} (low : 3 ≤ tlen.toNat) (high : tlen.toNat ≤ 18) (disp : BitVec 12) :
    brefTlen (brefInfo tlen disp) = tlen :=
  BitVec.eq_of_toNat_eq (by rw [toNat_brefTlen, toNat_brefInfo low high]; omega)

/-- DISP of the info made from any length is the displacement it was made from (R76, R86). -/
@[simp] theorem brefDisp_brefInfo (tlen : BitVec 5) (disp : BitVec 12) : brefDisp (brefInfo tlen disp) = disp :=
  BitVec.extractLsb'_append_eq_right

/-- The bytes of a header word decode to its fields, whatever follows (R71). -/
theorem decodeElement_header_le32 (w : Word) (more : List Byte) :
    decodeElement .header (le32 w ++ more) = .ok (.header (headerLen w) (headerTag w), more) := by
  simp only [le32, List.cons_append, List.nil_append, decodeElement, fromLE32_le32]

/-- The bytes of an info decode to its fields, whatever follows (R75). -/
theorem decodeElement_bref_be16 (info : BitVec 16) (more : List Byte) :
    decodeElement .bref (be16 info ++ more) = .ok (.bref (brefTlen info) (brefDisp info), more) := by
  simp only [be16, List.cons_append, List.nil_append, decodeElement, fromBE16_be16]

/-- A command's word decodes to the command, and no stream byte belongs to it (R80). -/
theorem decodeInstr_encodeInstr_command (op : Op) (more : List Byte) :
    decodeInstr ((encodeInstr (commandInstr op)).withTrailing more) = .ok (commandInstr op, []) := by
  cases op <;> rfl

/-- Settles O1: a command by its word; a header and a back-reference by their fields, which their words give back; a flag byte
and a literal are their one byte. -/
theorem encodeThenDecodeGivesInstruction : Obligations.EncodeThenDecodeGivesInstruction := by
  intro i more wf
  cases i with
  | decode => exact decodeInstr_encodeInstr_command .decode more
  | encode => exact decodeInstr_encodeInstr_command .encode more
  | hdrParse => exact decodeInstr_encodeInstr_command .hdrParse more
  | hdrSerialize => exact decodeInstr_encodeInstr_command .hdrSerialize more
  | header len tag =>
    have fields := decodeElement_header_le32 (headerWord len tag) more
    rwa [headerLen_headerWord, headerTag_headerWord] at fields
  | flag f => rfl
  | lit v => rfl
  | bref tlen disp =>
    obtain ⟨low, high⟩ := of_decide_eq_true wf
    have fields := decodeElement_bref_be16 (brefInfo tlen disp) more
    rwa [brefTlen_brefInfo low high, brefDisp_brefInfo] at fields

/-- Settles O6: the fields as numbers, and the exact difference of the copy source. -/
theorem backReferenceOperandsAreAssembled : Obligations.BackReferenceOperandsAreAssembled := by
  intro info
  obtain ⟨low, high⟩ := brefTlen_range info
  refine ⟨toNat_brefTlen info, toNat_brefDisp info, low, high, ?_, fun olen => ?_⟩
  · have := (brefDisp info).isLt
    omega
  · unfold copySource
    omega

/-- With enough bytes an element decodes, and exactly its bytes are dropped (R81, R85). -/
theorem decodeElement_enough {e : Element} {bytes : List Byte} (h : elementBytes e ≤ bytes.length) :
    ∃ i, decodeElement e bytes = .ok (i, bytes.drop (elementBytes e)) := by
  match e, bytes, h with
  | .header, _ :: _ :: _ :: _ :: _, _ => exact ⟨_, rfl⟩
  | .flag, _ :: _, _ => exact ⟨_, rfl⟩
  | .lit, _ :: _, _ => exact ⟨_, rfl⟩
  | .bref, _ :: _ :: _, _ => exact ⟨_, rfl⟩

/-- With fewer bytes than it has an element is truncated (R85, R117). -/
theorem decodeElement_short {e : Element} {bytes : List Byte} (h : bytes.length < elementBytes e) :
    decodeElement e bytes = .error .truncated := by
  match e, bytes, h with
  | .header, [], _ | .header, [_], _ | .header, [_, _], _ | .header, [_, _, _], _ => rfl
  | .flag, [], _ => rfl
  | .lit, [], _ => rfl
  | .bref, [], _ | .bref, [_], _ => rfl

/-- Settles O3: too few bytes are truncated, and enough bytes decode. -/
theorem elementIsRejectedOnlyWhenTooShort : Obligations.ElementIsRejectedOnlyWhenTooShort := by
  refine fun e bytes => ⟨⟨fun h => ?_, decodeElement_short⟩, decodeElement_enough⟩
  by_contra enough
  obtain ⟨i, hi⟩ := decodeElement_enough (Nat.le_of_not_lt enough)
  rw [hi] at h
  cases h

/-- The decoder reads bits 2:0 of a CTRL word and no other (R80). -/
theorem decodeCommand_mod_eight (w : Word) : decodeCommand w = decodeCommand (BitVec.ofNat 32 (w.toNat % 8)) := by
  have bit (k : Nat) (h : k < 3) : w.getLsbD k = (BitVec.ofNat 32 (w.toNat % 8)).getLsbD k := by
    have kept : (w.toNat % 8).testBit k = w.toNat.testBit k := by
      simpa [h] using Nat.testBit_mod_two_pow w.toNat 3 k
    have inWord : k < 32 := by omega
    rw [BitVec.getLsbD_ofNat, kept, decide_eq_true inWord, Bool.true_and, BitVec.getLsbD]
  unfold decodeCommand commandStart commandOp
  rw [bit 0 (by omega), bit 1 (by omega), bit 2 (by omega)]

/-- Settles O4: each of the eight values of bits 2:0 is read by itself. -/
theorem commandWordIsMatchedByItsLowBits : Obligations.CommandWordIsMatchedByItsLowBits := by
  refine ⟨fun w => ?_, rfl, rfl, rfl, rfl⟩
  rw [decodeCommand_mod_eight]
  have low : w.toNat % 8 < 8 := Nat.mod_lt _ (by omega)
  generalize w.toNat % 8 = m at low
  interval_cases m <;> rfl

/-- Settles O5: the decoder evaluated on the words of the spec's tables. -/
theorem specWordsDecodeAsTabled : Obligations.SpecWordsDecodeAsTabled := ⟨rfl, rfl, rfl, rfl, rfl, rfl, rfl⟩

/-- Settles O7: each field as a number. -/
theorem headerOperandsAreAssembled : Obligations.HeaderOperandsAreAssembled := by
  refine fun w => ⟨?_, ?_⟩
  · rw [headerLen, BitVec.extractLsb'_toNat, Nat.shiftRight_eq_div_pow]
    omega
  · rw [headerTag, BitVec.extractLsb'_toNat, Nat.shiftRight_zero]

end Sys2Proof
end

section
/-!
The listing assembler (R86 to R89): which operands it takes, the flag byte of a group bit by bit, and what a group emits.
-/

namespace Sys2Proof.Machine

/-- A byte operand above 255 is refused (R89). -/
theorem byteOperand_outOfRange {v : Nat} (h : 255 < v) : byteOperand v = .error .byteRange := if_neg (by omega)

/-- A length outside 3..18 is refused, whatever the displacement is (R89). -/
theorem brefOperand_lengthOutOfRange {len : Nat} (h : len < 3 ∨ 18 < len) (disp : Nat) :
    brefOperand len disp = .error .brefLength := if_pos h

/-- A displacement above 4095 of a legal length is refused (R89). -/
theorem brefOperand_displacementOutOfRange {len disp : Nat} (low : 3 ≤ len) (high : len ≤ 18) (h : 4095 < disp) :
    brefOperand len disp = .error .brefDisplacement := by
  unfold brefOperand
  rw [if_neg (by omega), if_pos h]

/-- A refused line emits nothing (R89). -/
theorem assemble_of_error {line : ListingLine} {r : ListingRefusal} (h : assembleLine line = .error r) :
    assemble [line] = [] := by
  simp [assemble, h]

/-- Settles O60: each operand's own refusal, taken over by the line. -/
theorem listingRefusesOperandsByName : Obligations.ListingRefusesOperandsByName := by
  refine ⟨fun len disp h => ?_, fun len disp low high h => ?_, fun l h => ?_, fun v h => ?_, fun tokens h => ?_,
    fun line r h => ?_⟩
  · exact brefOperand_lengthOutOfRange h disp
  · exact brefOperand_displacementOutOfRange low high h
  · exact if_neg (by omega)
  · simp only [assembleLine, byteOperand_outOfRange h, Except.map, and_self]
  · exact if_pos h
  · exact assemble_of_error h

/-- The tokens whose flag bit is set (R87). -/
def ListingToken.isBref : ListingToken → Bool
  | .bref _ _ => true
  | .lit _ | .lits _ => false

theorem ListingToken.isBref_iff (t : ListingToken) : t.isBref = true ↔ ∃ len disp, t = .bref len disp := by
  cases t <;> simp [isBref]

/-- What the tokens from number `k` on, counted from 0, add to the flag byte. -/
def groupFlagFrom : Nat → List ListingToken → Nat
  | _, [] => 0
  | k, t :: ts => (if t.isBref then 2 ^ (7 - k) else 0) + groupFlagFrom (k + 1) ts

/-- The flag byte is what all the tokens add (R87). -/
theorem groupFlag_eq_groupFlagFrom (tokens : List ListingToken) : groupFlag tokens = groupFlagFrom 0 tokens := by
  suffices h : ∀ k, ((tokens.zipIdx k).map fun p => if p.1.isBref then 2 ^ (7 - p.2) else 0).sum = groupFlagFrom k tokens by
    rw [← h 0, groupFlag]
    congr 2
    funext ⟨t, k⟩
    cases t <;> rfl
  induction tokens with
  | nil => exact fun _ => rfl
  | cons t ts ih => exact fun k => by rw [List.zipIdx_cons, List.map_cons, List.sum_cons, ih, groupFlagFrom]

/-- The tokens after number `k` add only bits below its own, bit 7 - k. -/
theorem groupFlagFrom_succ_lt {k : Nat} {ts : List ListingToken} (h : k + 1 + ts.length ≤ 8) :
    groupFlagFrom (k + 1) ts < 2 ^ (7 - k) := by
  induction ts generalizing k with
  | nil => exact Nat.two_pow_pos _
  | cons t ts ih =>
    rw [List.length_cons] at h
    have rest : groupFlagFrom (k + 1 + 1) ts < 2 ^ (7 - (k + 1)) := ih (by omega)
    have double : 2 ^ (7 - k) = 2 ^ (7 - (k + 1)) * 2 := by
      rw [← pow_succ]
      congr 1
      omega
    rw [groupFlagFrom]
    split <;> omega

/-- The bit of the j-th token from number `k` on is set exactly if that token is a BREF (R87). -/
theorem testBit_groupFlagFrom {k j : Nat} {ts : List ListingToken} (h : k + ts.length ≤ 8) (hj : k + j < 8) :
    (groupFlagFrom k ts).testBit (7 - k - j) = true ↔ ∃ len disp, ts[j]? = some (.bref len disp) := by
  induction ts generalizing k j with
  | nil => simp [groupFlagFrom]
  | cons t ts ih =>
    rw [List.length_cons] at h
    cases j with
    | zero =>
      have clear : (groupFlagFrom (k + 1) ts).testBit (7 - k) = false :=
        Nat.testBit_lt_two_pow (groupFlagFrom_succ_lt (by omega))
      have own : (groupFlagFrom k (t :: ts)).testBit (7 - k) = t.isBref := by
        rw [groupFlagFrom]
        cases t.isBref
        · simpa using clear
        · simpa [Nat.testBit_two_pow_add_eq] using clear
      rw [Nat.sub_zero, own, t.isBref_iff]
      simp
    | succ j =>
      have lower : (groupFlagFrom k (t :: ts)).testBit (7 - k - (j + 1)) =
          (groupFlagFrom (k + 1) ts).testBit (7 - (k + 1) - j) := by
        rw [groupFlagFrom, show 7 - (k + 1) - j = 7 - k - (j + 1) by omega]
        split
        · exact Nat.testBit_two_pow_add_gt (by omega) _
        · rw [Nat.zero_add]
      rw [lower, List.getElem?_cons_succ]
      exact ih (by omega) (by omega)

/-- A group of LIT and BREF tokens has nothing to write out (R88). -/
theorem expandTokens_eq_self {tokens : List ListingToken}
    (h : ∀ t ∈ tokens, (∃ v, t = .lit v) ∨ ∃ len disp, t = .bref len disp) : expandTokens tokens = tokens := by
  induction tokens with
  | nil => rfl
  | cons t ts ih =>
    have rest : expandTokens ts = ts := ih fun u hu => h u (List.mem_cons_of_mem t hu)
    obtain ⟨v, rfl⟩ | ⟨len, disp, rfl⟩ := h t List.mem_cons_self
    · exact congrArg _ rest
    · exact congrArg _ rest

/-- What an accepted group emits: the flag byte, then the bytes of its tokens, of which there are at most eight (R87, R89). -/
theorem assembleLine_group_ok {tokens : List ListingToken} {bytes : List Byte}
    (h : assembleLine (.group tokens) = .ok bytes) :
    (expandTokens tokens).length ≤ 8 ∧ ∃ parts, (expandTokens tokens).mapM tokenBytes = .ok parts ∧
      bytes = BitVec.ofNat 8 (groupFlag (expandTokens tokens)) :: parts.flatten := by
  rw [assembleLine] at h
  split at h
  · cases h
  · cases hparts : (expandTokens tokens).mapM tokenBytes with
    | error r => rw [hparts] at h; cases h
    | ok parts => rw [hparts] at h; cases h; exact ⟨by omega, parts, rfl, rfl⟩

/-- Settles O59: what an accepted group emits, with the flag byte read bit by bit. -/
theorem groupEmitsFlagByteFirst : Obligations.GroupEmitsFlagByteFirst := by
  intro tokens bytes plain h
  obtain ⟨size, parts, hparts, hbytes⟩ := assembleLine_group_ok h
  rw [expandTokens_eq_self plain] at size hparts hbytes
  refine ⟨_, parts, hbytes, size, hparts, fun j hj => ?_⟩
  have inByte : 7 - j < 8 := by omega
  rw [groupFlag_eq_groupFlagFrom, BitVec.getLsbD_ofNat, decide_eq_true inByte, Bool.true_and]
  exact testBit_groupFlagFrom (k := 0) (by omega) (by omega)

end Sys2Proof.Machine
end

section
/-!
The format header (R90 to R95): serialize's word is LEN = n mod 2^24 beside the tag, whichever mode accepts n; the header functions
in each of their cases; the registers of an operation's end; then the statements about the header.
-/

namespace Sys2Proof

/-- A header word as a number, LEN above TAG (R71). -/
theorem toNat_headerWord (len : BitVec 24) (tag : Byte) : (headerWord len tag).toNat = len.toNat * 256 + tag.toNat := by
  rw [headerWord, BitVec.toNat_append, ← Nat.shiftLeft_add_eq_or_of_lt tag.isLt, Nat.shiftLeft_eq]

/-- LEN of four header bytes is the last three, little-endian (R90). -/
theorem toNat_headerLen_fromLE32 (b0 b1 b2 b3 : Byte) :
    (headerLen (fromLE32 b0 b1 b2 b3)).toNat = b1.toNat + 256 * b2.toNat + 65536 * b3.toNat := by
  rw [(headerOperandsAreAssembled _).1, toNat_fromLE32]
  omega

namespace Machine

/-- The header word of a length: what serialize makes of it where it accepts it (R91). -/
def lengthHeader (n : Word) : Word := headerWord (n.setWidth 24) 0x10#8

theorem toNat_lengthHeader (n : Word) : (lengthHeader n).toNat = n.toNat % 2 ^ 24 * 256 + 16 := by
  rw [lengthHeader, toNat_headerWord, BitVec.toNat_setWidth]
  rfl

theorem lengthHeader_eq_ofNat (n : Word) : lengthHeader n = BitVec.ofNat 32 (n.toNat % 2 ^ 24 * 256 + 16) := by
  rw [← toNat_lengthHeader, BitVec.ofNat_toNat, BitVec.setWidth_eq]

/-- The shifted length and the tag share no bit, and the shift drops the length's bits from 24 up (R91). -/
theorem shiftLeft_or_tag (n : Word) : (n <<< 8) ||| 0x10#32 = lengthHeader n := by
  apply BitVec.eq_of_toNat_eq
  have shifted : (n <<< 8).toNat = (n.toNat % 2 ^ 24) <<< 8 := by
    rw [BitVec.toNat_shiftLeft, Nat.shiftLeft_eq, Nat.shiftLeft_eq]
    omega
  have tag : 16 < 2 ^ 8 := by decide
  rw [BitVec.toNat_or, shifted, toNat_lengthHeader]
  exact (Nat.shiftLeft_add_eq_or_of_lt tag _).symm.trans (by rw [Nat.shiftLeft_eq])

/-- A length below 2^24 is accepted, and under TRUNCATE every length is (R91). -/
theorem serializeWord_accepted {m : LenOverflowMode} {n : Word} (h : n.toNat < 2 ^ 24 ∨ m = .truncate) :
    serializeWord m n = .ok (lengthHeader n) := by
  rw [← shiftLeft_or_tag]
  unfold serializeWord
  split
  · obtain rfl : m = .truncate := h.resolve_left (by omega)
    rfl
  · rfl

/-- Under REJECT a length from 2^24 on is refused (R91). -/
theorem serializeWord_rejected {n : Word} (h : 2 ^ 24 ≤ n.toNat) : serializeWord .reject n = .error .lengthOverflow :=
  if_pos h

theorem serialize_accepted {m : LenOverflowMode} {n : Word} (h : n.toNat < 2 ^ 24 ∨ m = .truncate) :
    serialize m n = .ok (le32 (lengthHeader n)) := by
  rw [serialize, serializeWord_accepted h]

theorem serialize_rejected {n : Word} (h : 2 ^ 24 ≤ n.toNat) : serialize .reject n = .error (.lengthOverflow, 0#8) := by
  rw [serialize, serializeWord_rejected h]

/-- Where serialize answers bytes, they are the header of the length (R91). -/
theorem serialize_ok {m : LenOverflowMode} {n : Word} {b : List Byte} (hb : serialize m n = .ok b) :
    b = le32 (lengthHeader n) := by
  by_cases h : n.toNat < 2 ^ 24 ∨ m = .truncate
  · rw [serialize_accepted h] at hb
    exact (Except.ok.inj hb).symm
  · obtain ⟨hn, hm⟩ := not_or.mp h
    obtain rfl : m = .reject := by cases m <;> trivial
    rw [serialize_rejected (Nat.le_of_not_lt hn)] at hb
    cases hb

/-- Settles O10: the word of the length as a number; below 2^24 the remainder is the length itself. -/
theorem serializeEmitsHeaderOrOverflows : Obligations.SerializeEmitsHeaderOrOverflows := by
  refine ⟨fun m n h => ?_, fun n h => ⟨serialize_rejected h, ?_⟩⟩
  · rw [serialize_accepted (.inl h), lengthHeader_eq_ofNat, Nat.mod_eq_of_lt h]
  · rw [serialize_accepted (.inr rfl), lengthHeader_eq_ofNat]

/-- Fewer than four bytes are truncated (R90). -/
theorem parse_short {b : List Byte} (h : b.length < 4) : parse b = .error (.truncatedInput, 0#8) := by
  match b, h with
  | [], _ | [_], _ | [_, _], _ | [_, _, _], _ => rfl

/-- A byte 0 that is not the tag is UnsupportedFormat of that byte (R90). -/
theorem parse_wrong_tag {b0 : Byte} (h : b0 ≠ 0x10#8) (b1 b2 b3 : Byte) (more : List Byte) :
    parse (b0 :: b1 :: b2 :: b3 :: more) = .error (.unsupportedFormat, b0) := by
  simp [parse, headerTag_fromLE32, h]

/-- A byte 0 that is the tag gives LEN and TAG (R90). -/
theorem parse_header (b1 b2 b3 : Byte) (more : List Byte) :
    parse (0x10#8 :: b1 :: b2 :: b3 :: more) = .ok (headerLen (fromLE32 0x10#8 b1 b2 b3), 0x10#8) := by
  simp [parse, headerTag_fromLE32]

/-- Settles O9: parse in its three cases. -/
theorem parseGivesHeaderOrError : Obligations.ParseGivesHeaderOrError :=
  ⟨fun _ h => parse_short h, fun _ b1 b2 b3 more h => parse_wrong_tag h b1 b2 b3 more,
    fun b1 b2 b3 more => ⟨_, toNat_headerLen_fromLE32 0x10#8 b1 b2 b3, parse_header b1 b2 b3 more⟩⟩

/-- Settles O57: the header stage ends DECODE before its loop begins, with the word in HDR. -/
theorem wrongTagAlwaysFails : Obligations.WrongTagAlwaysFails := by
  refine fun b0 b1 b2 b3 more h => ⟨?_, parse_wrong_tag h b1 b2 b3 more⟩
  simp [decodeBytes, headerTag_fromLE32, h]

/-- The header of a length begins with the tag (R95). -/
theorem head?_le32_lengthHeader (n : Word) : (le32 (lengthHeader n)).head? = some 0x10#8 :=
  congrArg some (headerTag_headerWord _ _)

/-- parse reads the header of a length as that length modulo 2^24 (R95). -/
theorem parse_le32_lengthHeader (n : Word) : parse (le32 (lengthHeader n)) = .ok (n.setWidth 24, 0x10#8) := by
  simp [parse, le32, fromLE32_le32, lengthHeader]

/-- Settles O11: an accepted length's header begins with the tag and parses to the length's low 24 bits, which are the length
itself below 2^24. -/
theorem parseOfSerializeGivesLength : Obligations.ParseOfSerializeGivesLength := by
  refine ⟨fun m n h => ⟨_, _, serialize_accepted (.inl h), parse_le32_lengthHeader n, ?_⟩,
    fun n _ => ⟨_, _, serialize_accepted (.inr rfl), parse_le32_lengthHeader n, BitVec.toNat_setWidth 24 n⟩,
    fun m n b hb => ?_⟩
  · rw [BitVec.toNat_setWidth, Nat.mod_eq_of_lt h]
  · rw [serialize_ok hb]
    exact head?_le32_lengthHeader n

/-! The commands HDR_PARSE and HDR_SERIALIZE, from their start to their result. -/

/-- An error ends with IN_POS at the element start and HDR as it stood (R146). -/
theorem failedWith_raise {e : ErrorCode} {inPos hdr : Word} {s : State} (hpos : s.estart = inPos) (hhdr : s.hdr = hdr) :
    FailedWith e inPos hdr (State.raise e s) :=
  ⟨rfl, rfl, hpos, hhdr, rfl, fun _ => rfl⟩

/-- A success ends with the result registers given (R45). -/
theorem succeededWith_finishOk (outLen inPos hdr : Word) (s : State) :
    SucceededWith outLen inPos hdr (State.finishOk outLen inPos hdr s) := ⟨rfl, rfl, rfl, rfl, rfl⟩

/-- The first engine step of a sound launch is that of the operation's first phase (R43). -/
theorem State.engineStep_startOperation {op : Op} {s : State} (h : launchRefusal s.cfg op s.inLen = none) :
    (State.startOperation op s).engineStep = (State.startOperation op s).phaseStep :=
  State.engineStep_launched h

/-- HDR_PARSE's step ends the operation: too few bytes, a wrong tag, or a header (R92). -/
theorem State.hParseStep_ends (s : State) :
    (s.n.toNat < 4 → FailedWith .truncatedInput 0#32 s.hdr s.hParseStep) ∧
      (4 ≤ s.n.toNat → s.inByte 0 ≠ 0x10#8 → FailedWith .unsupportedFormat 0#32 s.headerWordIn s.hParseStep) ∧
      (4 ≤ s.n.toNat → s.inByte 0 = 0x10#8 → SucceededWith 0#32 4#32 s.headerWordIn s.hParseStep) := by
  have tag : headerTag s.headerWordIn = s.inByte 0 := headerTag_fromLE32 _ _ _ _
  refine ⟨fun h => ?_, fun h ht => ?_, fun h ht => ?_⟩
  · rw [State.hParseStep_short h]
    exact failedWith_raise rfl rfl
  · rw [State.hParseStep_wrong_tag h (tag.trans_ne ht)]
    exact failedWith_raise rfl rfl
  · rw [State.hParseStep_header h (tag.trans ht)]
    exact succeededWith_finishOk _ _ _ _

/-- Settles O26: the launch is sound, so the command starts the operation, and H_PARSE's step ends it. -/
theorem hdrParseReportsTheHeader : Obligations.HdrParseReportsTheHeader := by
  intro s hb hscope hlen
  have sound : launchRefusal s.cfg .hdrParse s.inLen = none := (launchRefusal_none_iff _ _ _).mpr ⟨hscope, .inr hlen⟩
  have ends := State.hParseStep_ends (State.startOperation .hdrParse { s with op := .hdrParse })
  exact ⟨_, _, State.command_start hb sound, State.engineStep_startOperation sound, engineFrame_hParseStep _, ends⟩

/-- A header written and reported as four bytes of output is read back as its bytes (R93). -/
theorem State.outBytes_finishOk_writeHeader (word inPos hdr : Word) (s : State) :
    (State.finishOk 4#32 inPos hdr (s.writeHeader word)).outBytes = le32 word := by
  have byte (k : Nat) (hk : k < (le32 word).length) :
      (State.finishOk 4#32 inPos hdr (s.writeHeader word)).outByte k = (le32 word)[k] := by
    have below : k < (4#32).toNat := hk
    refine State.outByte_of_get? ?_
    rw [State.finishOk_outMem, Memory.get?_below_of_lt _ below, State.writeHeader_outMem]
    simpa using Memory.get?_setAll_self s.outMem 0 k (le32 word) hk
  exact List.ext_getElem rfl (fun k hk hk' => by simpa [State.outBytes] using byte k hk')

/-- HDR_SERIALIZE's step of a length that is refused (R93). -/
theorem State.hSerStep_rejected {s : State} (h : 2 ^ 24 ≤ s.n.toNat) (hm : s.cfg.lenOverflow = .reject) :
    s.hSerStep = State.raise .lengthOverflow { s with estart := 0#32 } := by
  rw [State.hSerStep, hm, serializeWord_rejected h]

/-- HDR_SERIALIZE's step of a length that is accepted (R93). -/
theorem State.hSerStep_accepted {s : State} (h : s.n.toNat < 2 ^ 24 ∨ s.cfg.lenOverflow = .truncate) :
    s.hSerStep = State.finishOk 4#32 0#32 (lengthHeader s.n) (s.writeHeader (lengthHeader s.n)) := by
  rw [State.hSerStep, serializeWord_accepted h]

/-- HDR_SERIALIZE's step ends the operation: LengthOverflow, or the header of N in OUT (R93). -/
theorem State.hSerStep_ends (s : State) :
    (2 ^ 24 ≤ s.n.toNat → s.cfg.lenOverflow = .reject → FailedWith .lengthOverflow 0#32 s.hdr s.hSerStep) ∧
      (s.n.toNat < 2 ^ 24 ∨ s.cfg.lenOverflow = .truncate →
        SucceededWith 4#32 0#32 (lengthHeader s.n) s.hSerStep ∧ s.hSerStep.outBytes = le32 (lengthHeader s.n)) := by
  refine ⟨fun h hm => ?_, fun h => ?_⟩
  · rw [State.hSerStep_rejected h hm]
    exact failedWith_raise rfl rfl
  · rw [State.hSerStep_accepted h]
    exact ⟨succeededWith_finishOk _ _ _ _, State.outBytes_finishOk_writeHeader _ _ _ _⟩

/-- Settles O27: the command starts the operation whatever IN_LEN is, and H_SER's step ends it. -/
theorem hdrSerializeWritesTheHeader : Obligations.HdrSerializeWritesTheHeader := by
  intro s hb hscope
  have sound : launchRefusal s.cfg .hdrSerialize s.inLen = none :=
    (launchRefusal_none_iff _ _ _).mpr ⟨hscope, .inl rfl⟩
  obtain ⟨rejected, accepted⟩ := State.hSerStep_ends (State.startOperation .hdrSerialize { s with op := .hdrSerialize })
  exact ⟨_, _, State.command_start hb sound, State.engineStep_startOperation sound, engineFrame_hSerStep _, rejected,
    fun h => ⟨_, toNat_lengthHeader s.inLen, accepted h⟩⟩

end Machine
end Sys2Proof
end

section
/-!
The stream elements as instructions (R102 to R110): one equation per way each can end; then the statements about HEADER, FLAG and
BREF and about what an element leaves unchanged.
-/

namespace Sys2Proof.Machine

/-- HEADER with fewer than four bytes of input is truncated (R102). -/
theorem execHeader_short {s : State} (h : s.n.toNat < 4) (len : BitVec 24) (tag : Byte) :
    execHeader len tag s = .next (s.truncated .header) := if_pos h

/-- HEADER with the legal tag latches LEN, and a flag byte comes next (R102). -/
theorem execHeader_legal {s : State} (h : 4 ≤ s.n.toNat) (len : BitVec 24) :
    execHeader len 0x10#8 s =
      .next { s with
        estart := 0#32, ipos := 4#32, hdr := headerWord len 0x10#8, l := len, phase := .dReadFlag } :=
  (if_neg (Nat.not_lt.mpr h)).trans (if_pos rfl)

/-- HEADER with another tag is UnsupportedFormat, with the word in HDR (R102). -/
theorem execHeader_wrongTag {s : State} (h : 4 ≤ s.n.toNat) (len : BitVec 24) {tag : Byte} (ht : tag ≠ 0x10#8) :
    execHeader len tag s =
      .next (State.raise .unsupportedFormat { s with estart := 0#32, ipos := 4#32, hdr := headerWord len tag }) :=
  (if_neg (Nat.not_lt.mpr h)).trans (if_neg ht)

/-- FLAG with no input left is truncated (R104). -/
theorem execFlag_short {s : State} (h : s.n.toNat ≤ s.ipos.toNat) (f : Byte) :
    execFlag f s = .next (s.truncated .flag) := if_pos h

/-- FLAG with input left begins a group (R104). -/
theorem execFlag_begins {s : State} (h : s.ipos.toNat < s.n.toNat) (f : Byte) :
    execFlag f s =
      .next { s with estart := s.ipos, flags := f, ipos := s.ipos + 1, bit := 0#4, phase := .dToken } :=
  if_neg (Nat.not_le.mpr h)

/-- LIT with no input left is truncated (R106). -/
theorem execLit_short {s : State} (h : s.n.toNat ≤ s.ipos.toNat) (v : Byte) :
    execLit v s = .next (s.truncated .lit) := if_pos h

/-- LIT with input left appends its byte and ends its token (R106, R114). -/
theorem execLit_appends {s : State} (h : s.ipos.toNat < s.n.toNat) (v : Byte) :
    execLit v s = State.emitThen v State.postToken { s with estart := s.ipos, ipos := s.ipos + 1 } :=
  if_neg (Nat.not_le.mpr h)

/-- The state after LIT's byte is appended, before what follows the token (R106). -/
def State.literalAppended (v : Byte) (s : State) : State :=
  State.emit v { s with estart := s.ipos, ipos := s.ipos + 1 }

/-- BREF with fewer than two bytes left is truncated, whatever its operands (R107, R149). -/
theorem execBref_short {s : State} (h : s.n.toNat < s.ipos.toNat + 2) (tlen : BitVec 5) (disp : BitVec 12) :
    execBref tlen disp s = .next (s.truncated .bref) := if_pos h

/-- BREF with a source before the output's start is InvalidBackReference (R108). -/
theorem execBref_invalid {s : State} (h : s.ipos.toNat + 2 ≤ s.n.toNat) (tlen : BitVec 5) {disp : BitVec 12}
    (hd : s.olen.toNat < disp.toNat + 1) :
    execBref tlen disp s =
      .next (State.raise .invalidBackReference { s with estart := s.ipos, ipos := s.ipos + 2 }) := by
  have before : copySource s.olen disp < 0 := by unfold copySource; omega
  exact (if_neg (Nat.not_lt.mpr h)).trans (if_pos before)

/-- BREF with a source within the output sets up its copy (R108 to R110). -/
theorem execBref_copies {s : State} (h : s.ipos.toNat + 2 ≤ s.n.toNat) (tlen : BitVec 5) {disp : BitVec 12}
    (hd : disp.toNat + 1 ≤ s.olen.toNat) :
    execBref tlen disp s =
      .next { s with
        estart := s.ipos, ipos := s.ipos + 2, cptr := BitVec.ofNat 24 (s.olen.toNat - (disp.toNat + 1)),
        crem := BitVec.ofNat 5 (copyCount tlen s.l s.olen),
        cbulk := copyIsBulk (s.olen.toNat - (disp.toNat + 1) : Nat) (copyCount tlen s.l s.olen) s.olen,
        phase := .dCopy } := by
  have source : copySource s.olen disp = ((s.olen.toNat - (disp.toNat + 1) : Nat) : Int) := by
    unfold copySource
    omega
  refine (if_neg (Nat.not_lt.mpr h)).trans ?_
  dsimp only
  rw [source, if_neg (by omega), BitVec.ofInt_natCast]
  rfl

/-- TruncatedInput at an element ends with IN_POS at the element's start (R117). -/
theorem failedWith_truncated (e : Element) (s : State) :
    FailedWith .truncatedInput (s.elementOffset e) s.hdr (s.truncated e) := failedWith_raise rfl rfl

/-- Settles O31: the three ends of HEADER; the info of a wrong tag is read from the word in HDR. -/
theorem headerElementLatchesLength : Obligations.HeaderElementLatchesLength := by
  intro s len tag
  refine ⟨fun h ht => ?_, fun h ht => ⟨_, execHeader_wrongTag h len ht, failedWith_raise rfl rfl, ?_⟩,
    fun h => ⟨_, execHeader_short h len tag, failedWith_truncated .header s⟩⟩
  · subst ht
    exact execHeader_legal h len
  · show some (OpResult.err .unsupportedFormat (headerTag (headerWord len tag)) 0 (headerWord len tag)) = _
    rw [headerTag_headerWord]
    rfl

/-- Settles O32: the two ends of FLAG. -/
theorem flagElementBeginsGroup : Obligations.FlagElementBeginsGroup :=
  fun s f => ⟨fun h => execFlag_begins h f, fun h => ⟨_, execFlag_short h f, failedWith_truncated .flag s⟩⟩

/-- Settles O36: truncation is tested first, and only then the source. -/
theorem backReferenceErrorsInOrder : Obligations.BackReferenceErrorsInOrder :=
  fun s tlen disp => ⟨fun h => ⟨_, execBref_short h tlen disp, failedWith_truncated .bref s⟩,
    fun h hd => ⟨_, execBref_invalid h tlen hd, failedWith_raise rfl rfl⟩⟩

/-- CREM holds the copy's count: TLEN bounds it (R109). -/
theorem toNat_copyCount (tlen : BitVec 5) (l : BitVec 24) (olen : Word) :
    (BitVec.ofNat 5 (copyCount tlen l olen)).toNat = min tlen.toNat (l.toNat - olen.toNat) := by
  have := tlen.isLt
  rw [BitVec.toNat_ofNat]
  exact Nat.mod_eq_of_lt (by unfold copyCount; omega)

/-- CPTR holds the copy's source, which lies before L (R108, R123). -/
theorem toNat_copySource {l : BitVec 24} {olen : Word} (h : olen.toNat < l.toNat) (back : Nat) :
    (BitVec.ofNat 24 (olen.toNat - back)).toNat = olen.toNat - back := by
  have := l.isLt
  rw [BitVec.toNat_ofNat]
  exact Nat.mod_eq_of_lt (by omega)

/-- Settles O35: the set-up of a copy, with CPTR and CREM read as numbers. -/
theorem backReferenceSetsUpCopy : Obligations.BackReferenceSetsUpCopy := by
  intro s tlen disp hn hd hl
  have source := toNat_copySource hl (disp.toNat + 1)
  have count := toNat_copyCount tlen s.l s.olen
  refine ⟨_, execBref_copies hn tlen hd, rfl, rfl, source, count, ?_, rfl, rfl⟩
  refine decide_eq_true_iff.trans ?_
  rw [source, count, copyCount]
  omega

/-! What an element leaves unchanged. -/

/-- HEADER leaves the output, the group and the copy state, and, without an end, the result registers (R102). -/
theorem execHeader_frame {s t : State} {len : BitVec 24} {tag : Byte} (ht : execHeader len tag s = .next t) :
    t.olen = s.olen ∧ t.flags = s.flags ∧ t.bit = s.bit ∧ t.cptr = s.cptr ∧ t.crem = s.crem ∧ t.cbulk = s.cbulk ∧
      t.gcnt = s.gcnt ∧
      (t.phase = .dReadFlag →
        t.status = s.status ∧ t.outLen = s.outLen ∧ t.inPos = s.inPos ∧ ∀ k, t.outByte k = s.outByte k) := by
  by_cases hn : 4 ≤ s.n.toNat
  · by_cases htag : tag = 0x10#8
    · subst htag
      rw [execHeader_legal hn] at ht
      cases ht
      exact ⟨rfl, rfl, rfl, rfl, rfl, rfl, rfl, fun _ => ⟨rfl, rfl, rfl, fun _ => rfl⟩⟩
    · rw [execHeader_wrongTag hn len htag] at ht
      cases ht
      exact ⟨rfl, rfl, rfl, rfl, rfl, rfl, rfl, nofun⟩
  · rw [execHeader_short (by omega)] at ht
    cases ht
    exact ⟨rfl, rfl, rfl, rfl, rfl, rfl, rfl, nofun⟩

/-- FLAG leaves HDR, L, the output and the copy state, and, without an end, the result registers (R104). -/
theorem execFlag_frame {s t : State} {f : Byte} (ht : execFlag f s = .next t) :
    t.hdr = s.hdr ∧ t.l = s.l ∧ t.olen = s.olen ∧ t.cptr = s.cptr ∧ t.crem = s.crem ∧ t.cbulk = s.cbulk ∧
      t.gcnt = s.gcnt ∧
      (t.phase = .dToken →
        t.status = s.status ∧ t.outLen = s.outLen ∧ t.inPos = s.inPos ∧ ∀ k, t.outByte k = s.outByte k) := by
  by_cases hn : s.ipos.toNat < s.n.toNat
  · rw [execFlag_begins hn] at ht
    cases ht
    exact ⟨rfl, rfl, rfl, rfl, rfl, rfl, rfl, fun _ => ⟨rfl, rfl, rfl, fun _ => rfl⟩⟩
  · rw [execFlag_short (by omega)] at ht
    cases ht
    exact ⟨rfl, rfl, rfl, rfl, rfl, rfl, rfl, nofun⟩

/-- What follows a token leaves HDR, L and the copy state, and, without an end, the result registers and the output (R114 to
R116). -/
theorem State.postToken_frame (s : State) :
    s.postToken.hdr = s.hdr ∧ s.postToken.l = s.l ∧ s.postToken.cptr = s.cptr ∧ s.postToken.crem = s.crem ∧
      s.postToken.cbulk = s.cbulk ∧ s.postToken.gcnt = s.gcnt ∧
      (s.postToken.phase ≠ .idle →
        s.postToken.status = s.status ∧ s.postToken.outLen = s.outLen ∧ s.postToken.inPos = s.inPos ∧
          ∀ k, s.postToken.outByte k = s.outByte k) := by
  by_cases hd : s.olen.toNat = s.l.toNat
  · rw [State.postToken_done hd]
    exact ⟨rfl, rfl, rfl, rfl, rfl, rfl, fun h => absurd rfl h⟩
  · rw [State.postToken_goes_on hd]
    exact ⟨rfl, rfl, rfl, rfl, rfl, rfl, fun _ => ⟨rfl, rfl, rfl, fun _ => rfl⟩⟩

/-- LIT leaves HDR, L and the copy state, and, without an end, the result registers and every OUT byte but the one at OLEN (R106). -/
theorem execLit_frame {s t : State} {v : Byte} (ht : execLit v s = .next t) :
    t.hdr = s.hdr ∧ t.l = s.l ∧ t.cptr = s.cptr ∧ t.crem = s.crem ∧ t.cbulk = s.cbulk ∧ t.gcnt = s.gcnt ∧
      (t.phase ≠ .idle →
        t.status = s.status ∧ t.outLen = s.outLen ∧ t.inPos = s.inPos ∧
          ∀ k, k ≠ s.olen.toNat → t.outByte k = s.outByte k) := by
  by_cases hn : s.ipos.toNat < s.n.toNat
  · rw [execLit_appends hn] at ht
    obtain ⟨_, rfl⟩ := State.emitThen_inv ht
    obtain ⟨hhdr, hl, hcptr, hcrem, hcbulk, hgcnt, running⟩ := State.postToken_frame (s.literalAppended v)
    refine ⟨hhdr, hl, hcptr, hcrem, hcbulk, hgcnt, fun hp => ?_⟩
    obtain ⟨hstatus, houtLen, hinPos, hout⟩ := running hp
    exact ⟨hstatus, houtLen, hinPos, fun k hk => (hout k).trans (State.outByte_emit_other v _ hk)⟩
  · rw [execLit_short (by omega)] at ht
    cases ht
    exact ⟨rfl, rfl, rfl, rfl, rfl, rfl, fun h => absurd rfl h⟩

/-- BREF leaves HDR, L, the group state and the output, and, without an end, the result registers (R107 to R110). -/
theorem execBref_frame {s t : State} {tlen : BitVec 5} {disp : BitVec 12} (ht : execBref tlen disp s = .next t) :
    t.hdr = s.hdr ∧ t.l = s.l ∧ t.flags = s.flags ∧ t.bit = s.bit ∧ t.olen = s.olen ∧ t.gcnt = s.gcnt ∧
      (t.phase = .dCopy →
        t.status = s.status ∧ t.outLen = s.outLen ∧ t.inPos = s.inPos ∧ ∀ k, t.outByte k = s.outByte k) := by
  by_cases hn : s.ipos.toNat + 2 ≤ s.n.toNat
  · by_cases hd : disp.toNat + 1 ≤ s.olen.toNat
    · rw [execBref_copies hn tlen hd] at ht
      cases ht
      exact ⟨rfl, rfl, rfl, rfl, rfl, rfl, fun _ => ⟨rfl, rfl, rfl, fun _ => rfl⟩⟩
    · rw [execBref_invalid hn tlen (by omega)] at ht
      cases ht
      exact ⟨rfl, rfl, rfl, rfl, rfl, rfl, nofun⟩
  · rw [execBref_short (by omega)] at ht
    cases ht
    exact ⟨rfl, rfl, rfl, rfl, rfl, rfl, nofun⟩

/-- Settles O43: the frame every element keeps, and what each leaves besides. -/
theorem streamElementFrame : Obligations.StreamElementFrame :=
  fun _ _ => ⟨fun _ _ ht => ⟨engineFrame_execHeader ht, execHeader_frame ht⟩,
    fun _ ht => ⟨engineFrame_execFlag ht, execFlag_frame ht⟩,
    fun _ ht => ⟨engineFrame_execLit ht, execLit_frame ht⟩,
    fun _ _ ht => ⟨engineFrame_execBref ht, execBref_frame ht⟩⟩

end Sys2Proof.Machine
end

section
/-!
Tokens and copies (R112 to R116, R119, R120): what a token leaves, what one COPY step does; then the statements about LIT, the end
of a token, one COPY step, and the terminal check.
-/

namespace Sys2Proof.Machine

/-- Parameters in scope give OUT a byte wherever OLEN is below L (R54). -/
theorem olen_lt_outCap {c : Config} (h : inScope c = true) {l : BitVec 24} {olen : Word} (hl : olen.toNat < l.toNat) :
    olen.toNat < c.outCap := by
  obtain ⟨_, hcap, _, _⟩ := (inScope_iff c).mp h
  have := l.isLt
  omega

/-- The parameters of a sound launch are in scope (R55). -/
theorem inScope_of_launch {c : Config} {op : Op} {len : Word} (h : launchRefusal c op len = none) : inScope c = true :=
  ((launchRefusal_none_iff c op len).mp h).1

/-- An OLEN below L can be incremented in its width (R37, R38). -/
theorem olen_succ_lt {l : BitVec 24} {olen : Word} (h : olen.toNat < l.toNat) : olen.toNat + 1 < 2 ^ 32 := by
  have := l.isLt
  omega

theorem toNat_olen_succ {l : BitVec 24} {olen : Word} (h : olen.toNat < l.toNat) : (olen + 1).toNat = olen.toNat + 1 :=
  toNat_add_one (olen_succ_lt h)

/-- Ending DECODE reports L, IPOS and the header word (R116). -/
theorem succeededWith_finishDecode (s : State) :
    SucceededWith (s.l.setWidth 32) s.ipos s.hdr s.finishDecode := succeededWith_finishOk _ _ _ s

/-- What follows a token is the end of decoding, of the group, or neither (R114 to R116). -/
theorem State.postToken_outcomes (s : State) :
    s.postToken.flags = s.flags <<< 1 ∧ s.postToken.bit = s.bit + 1 ∧
      (s.olen.toNat = s.l.toNat → SucceededWith (s.l.setWidth 32) s.ipos s.hdr s.postToken) ∧
      (s.olen.toNat ≠ s.l.toNat → s.bit = 7#4 → s.postToken.phase = .dReadFlag ∧ s.postToken.status = s.status) ∧
      (s.olen.toNat ≠ s.l.toNat → s.bit ≠ 7#4 → s.postToken.phase = .dToken ∧ s.postToken.status = s.status) := by
  obtain ⟨hflags, hbit, _⟩ := s.postToken_always
  refine ⟨hflags, hbit, fun hd => ?_, fun hd h7 => ?_, fun hd h7 => ?_⟩
  · rw [State.postToken_done hd]
    exact succeededWith_finishOk _ _ _ _
  · rw [State.postToken_goes_on hd, h7]
    exact ⟨rfl, rfl⟩
  · have notEighth : s.bit + 1 ≠ 8#4 := by bv_omega
    rw [State.postToken_goes_on hd, if_neg notEighth]
    exact ⟨rfl, rfl⟩

/-- What follows a token leaves every known byte of the output as it was (R68, R114 to R116). -/
theorem State.outByte_postToken {s : State} {k : Nat} (hk : k < s.olen.toNat) (known : s.outKnown s.olen.toNat) :
    s.postToken.outByte k = s.outByte k := by
  by_cases hd : s.olen.toNat = s.l.toNat
  · rw [State.postToken_done hd]
    exact State.outByte_finishDecode (hd ▸ hk) (known k hk)
  · rw [State.postToken_goes_on hd]
    rfl

/-- Where a token starts with input left, LIT appends its byte and goes on as after every token (R106, R114). -/
theorem execLit_next {s : State} (hn : s.ipos.toNat < s.n.toNat) (hl : s.olen.toNat < s.l.toNat)
    (hscope : inScope s.cfg = true) (v : Byte) :
    execLit v s = .next (s.literalAppended v).postToken :=
  (execLit_appends hn v).trans (State.emitThen_next (olen_lt_outCap hscope hl))

/-- LIT's byte makes one more byte of the output known. -/
theorem outKnown_literalAppended {s : State} (hl : s.olen.toNat < s.l.toNat) (known : s.outKnown s.olen.toNat) (v : Byte) :
    (s.literalAppended v).outKnown (s.literalAppended v).olen.toNat :=
  outKnown_emit (s := { s with estart := s.ipos, ipos := s.ipos + 1 }) known (olen_succ_lt hl)

/-- Settles O33: the byte stands at OLEN, and what follows a token leaves the output known so far. -/
theorem literalElementAppendsByte : Obligations.LiteralElementAppendsByte := by
  refine fun s v => ⟨fun hn hl hscope known => ?_, fun h => ⟨_, execLit_short h v, failedWith_truncated .lit s⟩⟩
  have holen : (s.literalAppended v).olen.toNat = s.olen.toNat + 1 := toNat_olen_succ hl
  have kept {k : Nat} (hk : k < s.olen.toNat + 1) :
      (s.literalAppended v).postToken.outByte k = (s.literalAppended v).outByte k :=
    State.outByte_postToken (by omega) (outKnown_literalAppended hl known v)
  obtain ⟨_, _, hestart, hipos, holen', _⟩ := (s.literalAppended v).postToken_always
  refine ⟨_, execLit_next hn hl hscope v, hestart, hipos, holen', ?_, fun k hk => ?_⟩
  · exact (kept (by omega)).trans (State.outByte_emit_self v _)
  · exact (kept (by omega)).trans (State.outByte_emit_other v _ (Nat.ne_of_lt hk))

/-- The state after one COPY, before what may follow the token: OUT[CPTR] appended, CPTR and CREM moved on (R120). -/
def State.copied (s : State) : State :=
  { s.emit (s.outByte s.cptr.toNat) with cptr := s.cptr + 1, crem := s.crem - 1 }

/-- A COPY that is not the last one leaves the engine in D_COPY (R119, R120). -/
theorem State.copyStep_more {s : State} (hcap : s.olen.toNat < s.cfg.outCap) (h : 2 ≤ s.crem.toNat) :
    s.copyStep = .next s.copied := by
  have left : s.crem - 1 ≠ 0#5 := by bv_omega
  exact (State.emitThen_next hcap).trans (congrArg _ (if_neg left))

/-- The last COPY ends its token (R114, R119). -/
theorem State.copyStep_last {s : State} (hcap : s.olen.toNat < s.cfg.outCap) (h : s.crem = 1#5) :
    s.copyStep = .next s.copied.postToken := by
  have none_left : s.crem - 1 = 0#5 := by rw [h]; rfl
  exact (State.emitThen_next hcap).trans (congrArg _ (if_pos none_left))

/-- In D_COPY of a sound launch the engine's step is COPY (R119). -/
theorem State.engineStep_dCopy {s : State} (hp : s.phase = .dCopy) (h : launchRefusal s.cfg s.curOp s.n = none) :
    s.engineStep = s.copyStep := by
  rw [State.engineStep_launched h, State.phaseStep, hp]

/-- Settles O34: both kinds of token append their last byte first, and what follows is the same for both. -/
theorem tokenEndsDecodingGroupOrNeither : Obligations.TokenEndsDecodingGroupOrNeither := by
  intro s hscope hl
  have holen := toNat_olen_succ hl
  refine ⟨fun v hn => ⟨_, execLit_next hn hl hscope v, ?_⟩, fun hp hlaunch hc => ⟨s.copied.postToken, ?_, ?_⟩⟩
  · rw [← holen]
    exact State.postToken_outcomes (s.literalAppended v)
  · rw [State.engineStep_dCopy hp hlaunch, State.copyStep_last (olen_lt_outCap hscope hl) hc]
  · rw [← holen]
    exact State.postToken_outcomes s.copied

/-- Settles O37: a COPY step with more to copy is the append and the three counters. -/
theorem copyStepMovesOneByte : Obligations.CopyStepMovesOneByte := by
  intro s hp hlaunch hl hc
  refine ⟨s.copied, ?_, rfl, rfl, rfl, hp, State.outByte_emit_self _ s, fun k hk => State.outByte_emit_other _ s hk, rfl⟩
  rw [State.engineStep_dCopy hp hlaunch, State.copyStep_more (olen_lt_outCap (inScope_of_launch hlaunch) hl) hc]

/-- At D_READ_FLAG with the output complete the engine's step is the end of DECODE (R103). -/
theorem State.engineStep_complete {s : State} (hp : s.phase = .dReadFlag) (h : launchRefusal s.cfg s.curOp s.n = none)
    (hd : s.olen.toNat = s.l.toNat) : s.engineStep = .next s.finishDecode := by
  rw [State.engineStep_launched h, State.phaseStep, hp]
  exact if_pos hd

/-- Settles O40: the terminal check comes before a flag byte is read. -/
theorem terminalCheckReadsNoFlagByte : Obligations.TerminalCheckReadsNoFlagByte :=
  fun s hp hlaunch hd => ⟨s.finishDecode, State.engineStep_complete hp hlaunch hd, succeededWith_finishDecode s, rfl, rfl,
    fun known k hk => State.outByte_finishDecode hk (known k (hd ▸ hk))⟩

/-! The step around an element. -/

/-- In the phase of an element the step is to read and run that element (R81, R119). -/
theorem State.phaseStep_nextElement {s : State} {e : Element} (h : s.nextElement = some e) :
    s.phaseStep = s.runElement e := by
  unfold State.nextElement at h
  unfold State.phaseStep
  cases hp : s.phase <;> simp only [hp, reduceCtorEq] at h ⊢
  case dHeader => cases h; rfl
  case dToken => cases h; rfl
  case dReadFlag =>
    split at h
    · cases h
    · cases h
      exact if_neg (by assumption)

/-- Running an element whose bytes decode is running the instruction they decode to. -/
theorem State.runElement_decoded {s : State} {e : Element} {i : Instr} {rest : List Byte}
    (h : decodeElement e (s.available e) = .ok (i, rest)) : s.runElement e = exec i s := by
  simp only [State.runElement, h]

/-- A byte an element is read from stands below N and is that byte of the IN window (R51). -/
theorem State.available_getElem? {s : State} {e : Element} {j : Nat} {b : Byte} (h : (s.available e)[j]? = some b) :
    (s.elementOffset e).toNat + j < s.n.toNat ∧ b = s.inByte ((s.elementOffset e).toNat + j) := by
  obtain ⟨hj, rfl⟩ := List.getElem?_eq_some_iff.mp h
  rw [State.available_length] at hj
  refine ⟨by omega, ?_⟩
  simp [State.available]

/-- Settles O41: a lack of bytes is TruncatedInput, and the bytes read are taken below N alone. -/
theorem shortElementRaisesTruncatedInput : Obligations.ShortElementRaisesTruncatedInput := by
  refine fun s e he hlaunch => ⟨fun hshort => ⟨s.truncated e, ?_, failedWith_truncated e s, EngineFrame.truncated e s⟩,
    fun j b h => State.available_getElem? h⟩
  rw [State.engineStep_launched hlaunch, State.phaseStep_nextElement he, State.runElement_short hshort]

/-- Settles O48: the engine's step runs the element its bytes decode to, and a CTRL write the command its word decodes to. -/
theorem stepRunsTheDecodedInstruction : Obligations.StepRunsTheDecodedInstruction := by
  refine ⟨fun s e i rest ha he hlaunch hi => ?_, fun s w i rest ha hi => ?_⟩
  · rw [step_engine ha, State.engineStep_launched hlaunch, State.phaseStep_nextElement he, State.runElement_decoded hi]
  · rw [step_move ha, State.move_writeCtrl]
    simp only [State.writeCtrl, hi]

end Sys2Proof.Machine
end

section
/-!
The decoder on byte lists (R101, R110 to R113): both copies are the closed form; the loop, one equation per way it can go on or end;
then the statements about copies and about the bytes a successful DECODE consumes.
-/

namespace Sys2Proof.Machine

theorem closedCopy_zero (out : List Byte) (ptr : Nat) : closedCopy out ptr 0 = out := List.append_nil out

theorem length_closedCopy (out : List Byte) (ptr cnt : Nat) : (closedCopy out ptr cnt).length = out.length + cnt := by
  simp [closedCopy]

/-- A copied byte is the byte one period on, once the first copied byte is appended (R112). -/
theorem getD_append_period {out : List Byte} {ptr d : Nat} (hd : out.length = ptr + (d + 1)) (k : Nat) :
    (out ++ [out.getD ptr 0#8]).getD (ptr + 1 + k % (d + 1)) 0#8 = out.getD (ptr + (k + 1) % (d + 1)) 0#8 := by
  have hk : k % (d + 1) < d + 1 := Nat.mod_lt k (by omega)
  by_cases hlast : k % (d + 1) = d
  · have wraps : (k + 1) % (d + 1) = 0 := Nat.succ_mod_succ_eq_zero_iff.mpr hlast
    have appended : ptr + 1 + d = out.length := by omega
    rw [hlast, wraps, appended, List.getD_append_right _ _ _ _ le_rfl]
    simp
  · have goesOn : (k + 1) % (d + 1) = k % (d + 1) + 1 := by
      rw [← Nat.mod_add_mod, Nat.mod_eq_of_lt (by omega)]
    rw [goesOn, List.getD_append _ _ _ _ (by omega), Nat.add_assoc, Nat.add_comm 1]

/-- The closed form copies its first byte and goes on from the longer output, with the same period (R112, R113). -/
theorem closedCopy_succ {out : List Byte} {ptr : Nat} (h : ptr < out.length) (cnt : Nat) :
    closedCopy out ptr (cnt + 1) = closedCopy (out ++ [out.getD ptr 0#8]) (ptr + 1) cnt := by
  obtain ⟨d, hd⟩ : ∃ d, out.length = ptr + (d + 1) := ⟨out.length - ptr - 1, by omega⟩
  have period : out.length - ptr = d + 1 := by omega
  have samePeriod : (out ++ [out.getD ptr 0#8]).length - (ptr + 1) = d + 1 := by
    rw [List.length_append, List.length_singleton]
    omega
  simp only [closedCopy, period, samePeriod, getD_append_period hd, List.range_succ_eq_map, List.map_cons, List.map_map,
    Nat.zero_mod, Nat.add_zero, List.append_assoc, List.singleton_append]
  rfl

/-- The byte-by-byte copy is the closed form, overlapping or not (R113). -/
theorem bytewiseCopy_eq_closedCopy {out : List Byte} {ptr : Nat} (h : ptr < out.length) (cnt : Nat) :
    bytewiseCopy out ptr cnt = closedCopy out ptr cnt := by
  induction cnt generalizing out ptr with
  | zero => exact (closedCopy_zero out ptr).symm
  | succ cnt ih => rw [bytewiseCopy, ih (by simpa using h), closedCopy_succ h]

/-- Where the source range ends before the output does, no copied byte is read again, so the bulk copy is the closed form too
(R111, R113). -/
theorem bulkCopy_eq_closedCopy {out : List Byte} {ptr cnt : Nat} (h : ptr + cnt < out.length) :
    bulkCopy out ptr cnt = closedCopy out ptr cnt := by
  refine congrArg (out ++ ·) (List.map_congr_left fun k hk => ?_)
  have below : k < out.length - ptr := by have := List.mem_range.mp hk; omega
  rw [Nat.mod_eq_of_lt below]

theorem copyBytes_eq_closedCopy {out : List Byte} {ptr : Nat} (h : ptr < out.length) (cnt : Nat) :
    copyBytes out ptr cnt = closedCopy out ptr cnt := by
  unfold copyBytes
  split
  · exact bulkCopy_eq_closedCopy (by assumption)
  · exact bytewiseCopy_eq_closedCopy h cnt

/-- Settles O39: each path's copy is the closed form. -/
theorem copyResultIndependentOfPath : Obligations.CopyResultIndependentOfPath :=
  fun out ptr cnt h => ⟨copyBytes_eq_closedCopy h cnt, bytewiseCopy_eq_closedCopy h cnt, length_closedCopy out ptr cnt⟩

/-! The loop of R101. -/

section
variable {l : Nat} {hdr : Word} {flags : Byte} {pos left : Nat} {out : List Byte} {c0 c1 : Byte} {rest : List Byte}

/-- With the output complete the loop is done, whatever input is left (R103, R116, R118). -/
theorem decodeFrom_complete (h : out.length = l) : decodeFrom l hdr left flags pos out rest = .ok out pos hdr := by
  cases rest with
  | nil => rw [decodeFrom, if_pos h]
  | cons c0 rest => rw [decodeFrom.eq_def]; exact if_pos h

/-- With no input left and the output not complete, a flag byte or a token is truncated (R117). -/
theorem decodeFrom_nil (h : out.length ≠ l) :
    decodeFrom l hdr left flags pos out [] = .err .truncatedInput 0#8 pos hdr := by
  rw [decodeFrom, if_neg h]

/-- A flag byte begins a group (R104). -/
theorem decodeFrom_flag (h : out.length ≠ l) :
    decodeFrom l hdr 0 flags pos out (c0 :: rest) = decodeFrom l hdr 8 c0 (pos + 1) out rest := by
  rw [decodeFrom, if_neg h]

/-- A literal appends its byte (R106). -/
theorem decodeFrom_lit (h : out.length ≠ l) (hf : flagSelectsBref flags = false) :
    decodeFrom l hdr (left + 1) flags pos out (c0 :: rest) =
      decodeFrom l hdr left (flagShift flags) (pos + 1) (out ++ [c0]) rest := by
  have isLit : ¬ flags.getLsbD 7 = true := by simpa [flagSelectsBref] using hf
  rw [decodeFrom.eq_def]
  exact (if_neg h).trans (if_neg isLit)

/-- A back-reference with one byte left is truncated (R107). -/
theorem decodeFrom_bref_short (h : out.length ≠ l) (hf : flagSelectsBref flags = true) :
    decodeFrom l hdr (left + 1) flags pos out [c0] = .err .truncatedInput 0#8 pos hdr := by
  rw [decodeFrom, if_neg h]
  exact if_pos hf

/-- A back-reference to before the output's start is invalid (R108). -/
theorem decodeFrom_bref_invalid (h : out.length ≠ l) (hf : flagSelectsBref flags = true)
    (hd : out.length < (brefDisp (fromBE16 c0 c1)).toNat + 1) :
    decodeFrom l hdr (left + 1) flags pos out (c0 :: c1 :: rest) = .err .invalidBackReference 0#8 pos hdr := by
  rw [decodeFrom, if_neg h]
  exact (if_pos hf).trans (if_pos hd)

/-- A back-reference copies (R109 to R113). -/
theorem decodeFrom_bref (h : out.length ≠ l) (hf : flagSelectsBref flags = true)
    (hd : (brefDisp (fromBE16 c0 c1)).toNat + 1 ≤ out.length) :
    decodeFrom l hdr (left + 1) flags pos out (c0 :: c1 :: rest) =
      decodeFrom l hdr left (flagShift flags) (pos + 2)
        (copyBytes out (out.length - (brefDisp (fromBE16 c0 c1)).toNat - 1)
          (min (brefTlen (fromBE16 c0 c1)).toNat (l - out.length))) rest := by
  rw [decodeFrom, if_neg h]
  exact (if_pos hf).trans (if_neg (Nat.not_lt.mpr hd))

/-- The copy of a back-reference may be taken byte by byte on either path (R112, R113). -/
theorem decodeFrom_bref_bytewise (h : out.length ≠ l) (hf : flagSelectsBref flags = true)
    (hd : (brefDisp (fromBE16 c0 c1)).toNat + 1 ≤ out.length) :
    decodeFrom l hdr (left + 1) flags pos out (c0 :: c1 :: rest) =
      decodeFrom l hdr left (flagShift flags) (pos + 2)
        (bytewiseCopy out (out.length - ((brefDisp (fromBE16 c0 c1)).toNat + 1))
          (min (brefTlen (fromBE16 c0 c1)).toNat (l - out.length))) rest := by
  have source : out.length - ((brefDisp (fromBE16 c0 c1)).toNat + 1) < out.length := by omega
  rw [decodeFrom_bref h hf hd, Nat.sub_sub, copyBytes_eq_closedCopy source, bytewiseCopy_eq_closedCopy source]

end

/-- A loop that ends with success has filled the output, and the bytes it read alone decide what it gives (R116, R118, R122). -/
theorem decodeFrom_ok {l : Nat} {hdr word : Word} {left : Nat} {flags : Byte} {pos pos' : Nat} {out out' x : List Byte}
    (h : decodeFrom l hdr left flags pos out x = .ok out' pos' word) :
    out'.length = l ∧ word = hdr ∧ ∃ read rest, x = read ++ rest ∧ pos' = pos + read.length ∧
      ∀ more, decodeFrom l hdr left flags pos out (read ++ more) = .ok out' pos' word := by
  induction left, flags, pos, out, x using decodeFrom.induct (l := l) with
  | case1 left flags pos out hd =>
    rw [decodeFrom_complete hd] at h
    cases h
    exact ⟨hd, rfl, [], [], rfl, rfl, fun _ => decodeFrom_complete hd⟩
  | case2 left flags pos out hd =>
    rw [decodeFrom_nil hd] at h
    cases h
  | case3 left flags pos out c0 rest hd =>
    rw [decodeFrom_complete hd] at h
    cases h
    exact ⟨hd, rfl, [], _, rfl, rfl, fun _ => decodeFrom_complete hd⟩
  | case4 flags pos out c0 rest hd ih =>
    rw [decodeFrom_flag hd] at h
    obtain ⟨hlen, hword, read, rest, rfl, rfl, again⟩ := ih h
    refine ⟨hlen, hword, c0 :: read, rest, rfl, ?_, fun more => (decodeFrom_flag hd).trans (again more)⟩
    rw [List.length_cons]
    omega
  | case5 flags pos out c0 hd left hf =>
    rw [decodeFrom_bref_short hd hf] at h
    cases h
  | case6 flags pos out c0 hd left hf c1 rest hsource =>
    rw [decodeFrom_bref_invalid hd hf hsource] at h
    cases h
  | case7 flags pos out c0 hd left hf c1 rest hsource ih =>
    have hsource := Nat.le_of_not_lt hsource
    rw [decodeFrom_bref hd hf hsource] at h
    obtain ⟨hlen, hword, read, rest, rfl, rfl, again⟩ := ih h
    refine ⟨hlen, hword, c0 :: c1 :: read, rest, rfl, ?_, fun more => (decodeFrom_bref hd hf hsource).trans (again more)⟩
    rw [List.length_cons, List.length_cons]
    omega
  | case8 flags pos out c0 rest hd left hf ih =>
    have hf : flagSelectsBref flags = false := Bool.eq_false_of_not_eq_true hf
    rw [decodeFrom_lit hd hf] at h
    obtain ⟨hlen, hword, read, rest, rfl, rfl, again⟩ := ih h
    refine ⟨hlen, hword, c0 :: read, rest, rfl, ?_, fun more => (decodeFrom_lit hd hf).trans (again more)⟩
    rw [List.length_cons]
    omega

/-- A successful DECODE read a header with the legal tag, and its loop succeeded (R101, R102). -/
theorem decodeBytes_ok {x out : List Byte} {pos : Nat} {word : Word} (h : decodeBytes x = .ok out pos word) :
    ∃ b0 b1 b2 b3 rest, x = b0 :: b1 :: b2 :: b3 :: rest ∧ headerTag (fromLE32 b0 b1 b2 b3) = 0x10#8 ∧
      decodeFrom (headerLen (fromLE32 b0 b1 b2 b3)).toNat (fromLE32 b0 b1 b2 b3) 0 0#8 4 [] rest = .ok out pos word := by
  unfold decodeBytes at h
  split at h
  · dsimp only at h
    split_ifs at h with ht
    exact ⟨_, _, _, _, _, rfl, ht, h⟩
  · cases h

/-- DECODE of a header with the legal tag is its loop on the bytes after it (R101, R102). -/
theorem decodeBytes_header {b0 b1 b2 b3 : Byte} (ht : headerTag (fromLE32 b0 b1 b2 b3) = 0x10#8) (rest : List Byte) :
    decodeBytes (b0 :: b1 :: b2 :: b3 :: rest) =
      decodeFrom (headerLen (fromLE32 b0 b1 b2 b3)).toNat (fromLE32 b0 b1 b2 b3) 0 0#8 4 [] rest := if_pos ht

/-- Fewer than four bytes are no header (R102, R117). -/
theorem decodeBytes_short {x : List Byte} (h : x.length < 4) : decodeBytes x = .err .truncatedInput 0#8 0 0#32 := by
  match x, h with
  | [], _ | [_], _ | [_, _], _ | [_, _, _], _ => rfl

/-- At a flag byte the bits of the group before do not matter (R104). -/
theorem decodeFrom_zero_flags (l : Nat) (hdr : Word) (f g : Byte) (pos : Nat) (out x : List Byte) :
    decodeFrom l hdr 0 f pos out x = decodeFrom l hdr 0 g pos out x := by
  cases x <;> rfl

/-- Settles O56: the header stage reads four bytes, and the loop what it reads. -/
theorem decodeDependsOnlyOnConsumedBytes : Obligations.DecodeDependsOnlyOnConsumedBytes := by
  intro x out pos word h
  obtain ⟨b0, b1, b2, b3, rest, rfl, ht, hloop⟩ := decodeBytes_ok h
  obtain ⟨hlen, rfl, read, rest, rfl, rfl, again⟩ := decodeFrom_ok hloop
  refine ⟨hlen, by omega, ?_, fun more => ?_⟩
  · simp only [List.length_cons, List.length_append]
    omega
  · have consumed : (b0 :: b1 :: b2 :: b3 :: (read ++ rest)).take (4 + read.length) = b0 :: b1 :: b2 :: b3 :: read :=
      List.take_left' (l₁ := b0 :: b1 :: b2 :: b3 :: read) (by simp only [List.length_cons]; omega)
    rw [consumed]
    exact (decodeBytes_header ht (read ++ more)).trans (again more)

end Sys2Proof.Machine
end

section
/-!
The output written and the input left as byte lists, and the machine's copy on them (R51, R52, R112, R113, R119, R120): one COPY is the
first of the byte-by-byte copy; then the statement about a whole copy.
-/

namespace Sys2Proof.Machine

/-! The output and the input as byte lists. -/

/-- The output so far: OUT[0..OLEN−1] (R38). -/
def State.written (s : State) : List Byte := (List.range s.olen.toNat).map s.outByte

@[simp] theorem State.length_written (s : State) : s.written.length = s.olen.toNat := by simp [State.written]

theorem State.getD_written {s : State} {k : Nat} (h : k < s.olen.toNat) : s.written.getD k 0#8 = s.outByte k := by
  simp [State.written, h]

/-- Appending a byte appends it to the output. -/
theorem State.written_emit {s : State} (hm : s.olen.toNat + 1 < 2 ^ 32) (v : Byte) :
    (s.emit v).written = s.written ++ [v] := by
  have kept : (List.range s.olen.toNat).map (s.emit v).outByte = s.written :=
    List.map_congr_left fun k hk => State.outByte_emit_other v s (Nat.ne_of_lt (List.mem_range.mp hk))
  rw [State.written, State.emit_olen, toNat_add_one hm, List.range_succ, List.map_append, kept, List.map_singleton,
    State.outByte_emit_self]

theorem State.postToken_phase_ne_dCopy (s : State) : s.postToken.phase ≠ .dCopy := by
  by_cases hd : s.olen.toNat = s.l.toNat
  · rw [State.postToken_done hd]
    exact nofun
  · rw [State.postToken_goes_on hd]
    show (if _ then Phase.dReadFlag else .dToken) ≠ .dCopy
    split <;> exact nofun

/-- What follows a token leaves the output (R114 to R116). -/
theorem State.written_postToken {s : State} (known : s.outKnown s.olen.toNat) : s.postToken.written = s.written := by
  obtain ⟨_, _, _, _, holen, _⟩ := s.postToken_always
  rw [State.written, holen]
  exact List.map_congr_left fun k hk => State.outByte_postToken (List.mem_range.mp hk) known

/-- The input from an offset on, up to N (R51). -/
def State.inputFrom (s : State) (pos : Nat) : List Byte := (s.inBytes s.n.toNat).drop pos

theorem State.inputFrom_of_le {s : State} {pos : Nat} (h : s.n.toNat ≤ pos) : s.inputFrom pos = [] :=
  List.drop_eq_nil_of_le (by simpa [State.inBytes] using h)

theorem State.inputFrom_of_lt {s : State} {pos : Nat} (h : pos < s.n.toNat) :
    s.inputFrom pos = s.inByte pos :: s.inputFrom (pos + 1) := by
  have inside : pos < (s.inBytes s.n.toNat).length := by simpa [State.inBytes] using h
  rw [State.inputFrom, List.drop_eq_getElem_cons inside]
  simp [State.inBytes, State.inputFrom]

/-- The input begins with the header's four bytes (R70). -/
theorem State.inputFrom_header {s : State} (h : 4 ≤ s.n.toNat) :
    s.inputFrom 0 = s.inByte 0 :: s.inByte 1 :: s.inByte 2 :: s.inByte 3 :: s.inputFrom 4 := by
  rw [State.inputFrom_of_lt (by omega), State.inputFrom_of_lt (by omega), State.inputFrom_of_lt (by omega),
    State.inputFrom_of_lt (by omega)]

/-- At a back-reference the input begins with its two bytes (R75). -/
theorem State.inputFrom_bref {s : State} (h : s.ipos.toNat + 2 ≤ s.n.toNat) :
    s.inputFrom s.ipos.toNat =
      s.inByte s.ipos.toNat :: s.inByte (s.ipos.toNat + 1) :: s.inputFrom (s.ipos.toNat + 2) := by
  rw [State.inputFrom_of_lt (by omega), State.inputFrom_of_lt (by omega)]

/-! A copy. -/

/-- What a copy under way rests on (R36, R39, R109, R120). -/
structure Copying (s : State) : Prop where
  phase : s.phase = .dCopy
  known : s.outKnown s.olen.toNat
  bit : s.bit.toNat < 8
  source : s.cptr.toNat < s.olen.toNat
  more : 1 ≤ s.crem.toNat
  fits : s.olen.toNat + s.crem.toNat ≤ s.l.toNat

/-- An invariant state in D_COPY has a copy under way. -/
theorem Copying.of_inv {s : State} (h : Inv s) (hp : s.phase = .dCopy) : Copying s := by
  have hP := h.phaseInv
  unfold PhaseInv at hP
  rw [hp] at hP
  obtain ⟨d, hbit, hsource, hmore, _, hfits⟩ := hP
  exact ⟨hp, d.known, hbit, hsource, hmore, hfits⟩

section
variable {s : State} (c : Copying s)
include c

/-- A copy ends by L, so OLEN is below it. -/
theorem Copying.olen_lt : s.olen.toNat < s.l.toNat := by
  have := c.more
  have := c.fits
  omega

theorem Copying.toNat_olen : s.copied.olen.toNat = s.olen.toNat + 1 := toNat_olen_succ c.olen_lt

theorem Copying.toNat_cptr : s.copied.cptr.toNat = s.cptr.toNat + 1 := by
  have below : s.cptr.toNat + 1 < 2 ^ 24 := by
    have := c.source
    have := c.olen_lt
    have := s.l.isLt
    omega
  exact (BitVec.toNat_add s.cptr 1).trans (Nat.mod_eq_of_lt below)

theorem Copying.toNat_crem : s.copied.crem.toNat = s.crem.toNat - 1 := by
  have := c.more
  show (s.crem - 1).toNat = _
  bv_omega

/-- One COPY appends the byte at CPTR to the output (R120). -/
theorem Copying.written_copied : s.copied.written = s.written ++ [s.written.getD s.cptr.toNat 0#8] := by
  rw [State.getD_written c.source]
  exact State.written_emit (olen_succ_lt c.olen_lt) _

/-- One COPY is the first of the byte-by-byte copy (R112). -/
theorem Copying.bytewiseCopy_copied :
    bytewiseCopy s.copied.written s.copied.cptr.toNat s.copied.crem.toNat =
      bytewiseCopy s.written s.cptr.toNat s.crem.toNat := by
  obtain ⟨left, hleft⟩ : ∃ left, s.crem.toNat = left + 1 := ⟨s.crem.toNat - 1, by have := c.more; omega⟩
  rw [c.toNat_crem, c.toNat_cptr, c.written_copied, hleft]
  rfl

theorem Copying.known_copied : s.copied.outKnown s.copied.olen.toNat :=
  outKnown_emit c.known (olen_succ_lt c.olen_lt)

/-- With more bytes to copy, a COPY leaves a copy under way. -/
theorem Copying.copied (h : 2 ≤ s.crem.toNat) : Copying s.copied where
  phase := c.phase
  known := c.known_copied
  bit := c.bit
  source := by
    rw [c.toNat_cptr, c.toNat_olen]
    exact Nat.succ_lt_succ c.source
  more := by
    rw [c.toNat_crem]
    omega
  fits := by
    have := c.fits
    rw [c.toNat_olen, c.toNat_crem]
    show _ ≤ s.l.toNat
    omega

/-- In a sound launch the engine takes a COPY that is not the last and stays in D_COPY (R119). -/
theorem Copying.engineStep_more (hlaunch : launchRefusal s.cfg s.curOp s.n = none) (h : 2 ≤ s.crem.toNat) :
    s.engineStep = .next s.copied :=
  (State.engineStep_dCopy c.phase hlaunch).trans
    (State.copyStep_more (olen_lt_outCap (inScope_of_launch hlaunch) c.olen_lt) h)

/-- The last COPY ends its token (R119). -/
theorem Copying.engineStep_last (hlaunch : launchRefusal s.cfg s.curOp s.n = none) (h : s.crem.toNat = 1) :
    s.engineStep = .next s.copied.postToken :=
  (State.engineStep_dCopy c.phase hlaunch).trans
    (State.copyStep_last (olen_lt_outCap (inScope_of_launch hlaunch) c.olen_lt) (BitVec.eq_of_toNat_eq h))

end

/-- A run whose first step is known. -/
theorem engineRun_succ_of_step {k : Nat} {s t : State} (h : s.engineStep = .next t) :
    engineRun (k + 1) s = engineRun k t := by
  simp only [engineRun, h]

/-- A copy leaves D_COPY after CREM steps, with the byte-by-byte copy as its output (R112, R119). -/
theorem Copying.engineRun {s : State} (c : Copying s) (hlaunch : launchRefusal s.cfg s.curOp s.n = none) :
    ∃ t, engineRun s.crem.toNat s = .next t ∧ t.phase ≠ .dCopy ∧
      t.written = bytewiseCopy s.written s.cptr.toNat s.crem.toNat := by
  obtain ⟨left, hleft⟩ : ∃ left, s.crem.toNat = left + 1 := ⟨s.crem.toNat - 1, by have := c.more; omega⟩
  rw [hleft]
  induction left generalizing s with
  | zero =>
    refine ⟨_, engineRun_succ_of_step (c.engineStep_last hlaunch hleft), State.postToken_phase_ne_dCopy _, ?_⟩
    rw [State.written_postToken c.known_copied, c.written_copied]
    rfl
  | succ left ih =>
    have more : 2 ≤ s.crem.toNat := by omega
    have left_copied : s.copied.crem.toNat = left + 1 := by rw [c.toNat_crem]; omega
    obtain ⟨t, ht, hp, hw⟩ := ih (c.copied more) hlaunch left_copied
    refine ⟨t, (engineRun_succ_of_step (c.engineStep_more hlaunch more)).trans ht, hp, hw.trans ?_⟩
    rw [← hleft, ← c.bytewiseCopy_copied, left_copied]

/-- A byte of the closed form's copy (R113). -/
theorem getD_closedCopy_copied {out : List Byte} {ptr cnt k : Nat} (hk : k < cnt) :
    (closedCopy out ptr cnt).getD (out.length + k) 0#8 = out.getD (ptr + k % (out.length - ptr)) 0#8 := by
  rw [closedCopy, List.getD_append_right _ _ _ _ (Nat.le_add_right _ _), Nat.add_sub_cancel_left]
  simp [hk]

/-- Settles O38: the output after the copy is the byte-by-byte copy, which is the closed form. -/
theorem copyRepeatsThePeriod : Obligations.CopyRepeatsThePeriod := by
  intro s h hp
  have c := Copying.of_inv h hp
  obtain ⟨t, ht, hpt, hw⟩ := c.engineRun (Launched.of_inv h (by simp [hp])).launch
  have source : s.cptr.toNat < s.written.length := by rw [State.length_written]; exact c.source
  rw [bytewiseCopy_eq_closedCopy source] at hw
  have holen : t.olen.toNat = s.olen.toNat + s.crem.toNat := by
    rw [← State.length_written t, hw, length_closedCopy, State.length_written]
  refine ⟨t, ht, holen, hpt, fun k hk => ?_, fun k hk => ?_⟩
  · have period : s.cptr.toNat + k % (s.olen.toNat - s.cptr.toNat) < s.olen.toNat := by
      have := Nat.mod_lt k (Nat.sub_pos_of_lt c.source)
      have := c.source
      omega
    have byte := getD_closedCopy_copied (out := s.written) (ptr := s.cptr.toNat) hk
    rwa [← hw, State.length_written, State.getD_written (by omega), State.getD_written period] at byte
  · rw [← State.getD_written (by omega : k < t.olen.toNat), hw, closedCopy,
      List.getD_append _ _ _ _ (by rwa [State.length_written]), State.getD_written hk]

end Sys2Proof.Machine
end

section
/-!
DECODE against its definition on byte lists (R101, R119 to R121): the result a decoding state is bound for, and how many steps it
can still take; one lemma per micro-step that keeps the first and lowers the second; then the statement about a whole DECODE.
-/

namespace Sys2Proof.Machine

/-! The decoding states. -/

/-- What DECODE's steps rest on, phase by phase (R36, R38, R39, R109, R120). Unlike `Inv` it says nothing of the windows' form, so
it holds of every launch, and it keeps HDR 0 until the header is read. -/
def DecodeReady (s : State) : Prop :=
  match s.phase with
  | .idle => True
  | .dHeader => s.olen = 0#32 ∧ s.hdr = 0#32
  | .dReadFlag => s.outKnown s.olen.toNat ∧ s.olen.toNat ≤ s.l.toNat
  | .dToken => s.outKnown s.olen.toNat ∧ s.olen.toNat < s.l.toNat ∧ s.bit.toNat < 8
  | .dCopy => Copying s
  | .hParse | .hSer | .eHeader | .eFlag | .eLit => False

/-- The result a decoding state is bound for, by R101 on the bytes it has written and the bytes it has left. In D_COPY the rest of
the copy comes first. -/
def State.finalResult (s : State) : Option OpResult :=
  match s.phase with
  | .idle => s.result
  | .dHeader => some (decodeBytes (s.inputFrom 0))
  | .dReadFlag =>
    some (decodeFrom s.l.toNat s.hdr 0 s.flags s.ipos.toNat s.written (s.inputFrom s.ipos.toNat))
  | .dToken =>
    some (decodeFrom s.l.toNat s.hdr (8 - s.bit.toNat) s.flags s.ipos.toNat s.written (s.inputFrom s.ipos.toNat))
  | .dCopy =>
    some (decodeFrom s.l.toNat s.hdr (7 - s.bit.toNat) (flagShift s.flags) s.ipos.toNat
      (bytewiseCopy s.written s.cptr.toNat s.crem.toNat) (s.inputFrom s.ipos.toNat))
  | .hParse | .hSer | .eHeader | .eFlag | .eLit => none

/-- A bound on the steps a decoding state can still take: one for each byte left to read and to write, and one more (R121). -/
def State.fuel (s : State) : Nat :=
  match s.phase with
  | .dHeader => s.n.toNat + declaredLength (s.inputFrom 0) + 2
  | .dReadFlag | .dToken | .dCopy => (s.n.toNat - s.ipos.toNat) + (s.l.toNat - s.olen.toNat) + 1
  | .idle | .hParse | .hSer | .eHeader | .eFlag | .eLit => 0

/-- A step towards the result: the state after it is a decoding state too, bound for the same result, with less fuel. -/
structure Advances (s t : State) : Prop where
  ready : DecodeReady t
  result : t.finalResult = s.finalResult
  fuel : t.fuel < s.fuel

/-- The end of DECODE gives the output written (R116). -/
theorem State.finalResult_finishDecode {s : State} (known : s.outKnown s.olen.toNat) (hd : s.olen.toNat = s.l.toNat) :
    s.finishDecode.finalResult = some (.ok s.written s.ipos.toNat s.hdr) := by
  have bytes : s.finishDecode.outBytes = s.written := by
    have length : s.finishDecode.outLen.toNat = s.olen.toNat := (toNat_zext_len s.l).trans hd.symm
    rw [State.outBytes, length]
    exact List.map_congr_left fun k hk =>
      State.outByte_finishDecode (hd ▸ List.mem_range.mp hk) (known k (List.mem_range.mp hk))
  exact congrArg (fun out => some (OpResult.ok out s.ipos.toNat s.hdr)) bytes

/-- What follows a token is bound for what the loop gives after that token, and has fuel for what is left (R114 to R116). -/
theorem State.postToken_advances {s : State} (known : s.outKnown s.olen.toNat) (hl : s.olen.toNat ≤ s.l.toNat)
    (hb : s.bit.toNat < 8) :
    DecodeReady s.postToken ∧
      s.postToken.finalResult =
        some (decodeFrom s.l.toNat s.hdr (7 - s.bit.toNat) (flagShift s.flags) s.ipos.toNat s.written
          (s.inputFrom s.ipos.toNat)) ∧
      s.postToken.fuel ≤ (s.n.toNat - s.ipos.toNat) + (s.l.toNat - s.olen.toNat) + 1 := by
  by_cases hd : s.olen.toNat = s.l.toNat
  · rw [State.postToken_done hd, decodeFrom_complete (s.length_written.trans hd)]
    exact ⟨trivial, State.finalResult_finishDecode known hd, Nat.zero_le _⟩
  · rw [State.postToken_goes_on hd]
    by_cases h8 : s.bit + 1 = 8#4
    · have last : 7 - s.bit.toNat = 0 := by bv_omega
      rw [if_pos h8, last]
      exact ⟨⟨known, hl⟩, rfl, le_rfl⟩
    · have counted : (s.bit + 1).toNat = s.bit.toNat + 1 := by bv_omega
      have notLast : s.bit.toNat + 1 < 8 := by bv_omega
      have left : 7 - s.bit.toNat = 8 - (s.bit + 1).toNat := by omega
      rw [if_neg h8, left]
      exact ⟨⟨known, by show s.olen.toNat < s.l.toNat; omega, by rwa [← counted] at notLast⟩, rfl, le_rfl⟩

/-! The micro-steps of DECODE. -/

/-- An error of this step ends the operation with the result the step was bound for (R146). -/
theorem advances_raise {s t : State} {e : ErrorCode}
    (hb : s.finalResult = some (.err e (errorInfo e t.hdr) t.estart.toNat t.hdr)) (hf : 0 < s.fuel) :
    Advances s (State.raise e t) :=
  ⟨trivial, hb.symm, hf⟩

/-- D_HEADER (R102). -/
theorem advances_dHeader {s : State} (hp : s.phase = .dHeader) (holen : s.olen = 0#32) (hhdr : s.hdr = 0#32) :
    ∃ t, s.runElement .header = .next t ∧ Advances s t := by
  have final : s.finalResult = some (decodeBytes (s.inputFrom 0)) := by simp only [State.finalResult, hp]
  have fuel : s.fuel = s.n.toNat + declaredLength (s.inputFrom 0) + 2 := by simp only [State.fuel, hp]
  by_cases hn : s.n.toNat < 4
  · refine ⟨_, State.runElement_header_short hn, advances_raise ?_ (by omega)⟩
    have few : (s.inputFrom 0).length < 4 := by simpa [State.inputFrom, State.inBytes] using hn
    rw [final, decodeBytes_short few, ← hhdr]
    rfl
  have hn : 4 ≤ s.n.toNat := by omega
  rw [State.inputFrom_header hn] at final fuel
  by_cases ht : headerTag s.headerWordIn = 0x10#8
  · have empty : s.written = [] := List.eq_nil_of_length_eq_zero (by rw [State.length_written, holen]; rfl)
    have length : declaredLength (s.inByte 0 :: s.inByte 1 :: s.inByte 2 :: s.inByte 3 :: s.inputFrom 4) =
        (headerLen s.headerWordIn).toNat := if_pos ht
    refine ⟨_, State.runElement_header_legal hn ht, ⟨by simp [State.outKnown, holen], by simp [holen]⟩, ?_, ?_⟩
    · rw [final, decodeBytes_header ht, decodeFrom_zero_flags _ _ _ s.flags, ← empty]
      rfl
    · rw [fuel, length]
      show s.n.toNat - 4 + ((headerLen s.headerWordIn).toNat - s.olen.toNat) + 1 < _
      omega
  · refine ⟨_, State.runElement_header_wrong_tag hn ht, advances_raise ?_ (by omega)⟩
    exact final.trans (congrArg some (if_neg ht))

/-- What a state before a flag byte is bound for. -/
theorem State.finalResult_dReadFlag {s : State} (hp : s.phase = .dReadFlag) :
    s.finalResult = some (decodeFrom s.l.toNat s.hdr 0 s.flags s.ipos.toNat s.written (s.inputFrom s.ipos.toNat)) := by
  simp only [State.finalResult, hp]

/-- What a state before a token is bound for: the group may hold this token and 7 − BIT more (R36). -/
theorem State.finalResult_dToken {s : State} (hp : s.phase = .dToken) (hb : s.bit.toNat < 8) :
    s.finalResult = some (decodeFrom s.l.toNat s.hdr (7 - s.bit.toNat + 1) s.flags s.ipos.toNat s.written
      (s.inputFrom s.ipos.toNat)) := by
  have left : 8 - s.bit.toNat = 7 - s.bit.toNat + 1 := by omega
  simp only [State.finalResult, hp, left]

theorem State.fuel_betweenTokens {s : State} (hp : s.phase = .dReadFlag ∨ s.phase = .dToken) :
    s.fuel = (s.n.toNat - s.ipos.toNat) + (s.l.toNat - s.olen.toNat) + 1 := by
  rcases hp with hp | hp <;> simp only [State.fuel, hp]

/-- Below L the output is not complete. -/
theorem State.length_written_ne {s : State} (hl : s.olen.toNat < s.l.toNat) : s.written.length ≠ s.l.toNat := by
  rw [State.length_written]
  exact Nat.ne_of_lt hl

/-- FLAG in D_READ_FLAG (R104). -/
theorem advances_flag {s : State} (hp : s.phase = .dReadFlag) (known : s.outKnown s.olen.toNat)
    (hl : s.olen.toNat < s.l.toNat) : ∃ t, s.runElement .flag = .next t ∧ Advances s t := by
  have final := State.finalResult_dReadFlag hp
  have fuel := State.fuel_betweenTokens (.inl hp)
  have unfinished := State.length_written_ne hl
  by_cases hn : s.ipos.toNat < s.n.toNat
  · have hip : (s.ipos + 1).toNat = s.ipos.toNat + 1 := toNat_add_one (by have := s.n.isLt; omega)
    refine ⟨_, State.runElement_flag_begins hn, ⟨known, hl, by simp⟩, ?_, ?_⟩
    · rw [final, State.inputFrom_of_lt hn, decodeFrom_flag unfinished, ← hip]
      rfl
    · rw [fuel]
      show s.n.toNat - (s.ipos + 1).toNat + (s.l.toNat - s.olen.toNat) + 1 < _
      omega
  · refine ⟨_, State.runElement_flag_short hn, advances_raise ?_ (by omega)⟩
    rw [final, State.inputFrom_of_le (by omega), decodeFrom_nil unfinished]
    rfl

/-- D_READ_FLAG: the terminal check, or a flag byte (R103, R104). -/
theorem advances_dReadFlag {s : State} (hp : s.phase = .dReadFlag) (known : s.outKnown s.olen.toNat)
    (hl : s.olen.toNat ≤ s.l.toNat) : ∃ t, s.phaseStep = .next t ∧ Advances s t := by
  have final := State.finalResult_dReadFlag hp
  have fuel := State.fuel_betweenTokens (.inl hp)
  rw [State.phaseStep, hp]
  by_cases hd : s.olen.toNat = s.l.toNat
  · refine ⟨s.finishDecode, if_pos hd, trivial, ?_, ?_⟩
    · rw [final, decodeFrom_complete (s.length_written.trans hd), State.finalResult_finishDecode known hd]
    · rw [fuel]
      exact Nat.succ_pos _
  · simp only [if_neg hd]
    exact advances_flag hp known (by omega)

/-- LIT in D_TOKEN (R106). -/
theorem advances_lit {s : State} (hp : s.phase = .dToken) (hf : flagSelectsBref s.flags = false)
    (hscope : inScope s.cfg = true) (known : s.outKnown s.olen.toNat) (hl : s.olen.toNat < s.l.toNat)
    (hb : s.bit.toNat < 8) : ∃ t, s.runElement .lit = .next t ∧ Advances s t := by
  have final := State.finalResult_dToken hp hb
  have fuel := State.fuel_betweenTokens (.inr hp)
  have unfinished := State.length_written_ne hl
  by_cases hn : s.ipos.toNat < s.n.toNat
  · have hip : (s.ipos + 1).toNat = s.ipos.toNat + 1 := toNat_add_one (by have := s.n.isLt; omega)
    have holen : (s.olen + 1).toNat = s.olen.toNat + 1 := toNat_olen_succ hl
    let v := s.inByte s.ipos.toNat
    have step : s.runElement .lit = .next (s.literalAppended v).postToken :=
      (State.runElement_lit hn).trans (execLit_next hn hl hscope v)
    have written : (s.literalAppended v).written = s.written ++ [v] :=
      State.written_emit (s := { s with estart := s.ipos, ipos := s.ipos + 1 }) (olen_succ_lt hl) v
    obtain ⟨ready, after, fewer_left⟩ :=
      State.postToken_advances (outKnown_literalAppended hl known v) (holen.trans_le hl) hb
    refine ⟨_, step, ready, ?_, ?_⟩
    · rw [after, final, State.inputFrom_of_lt hn, decodeFrom_lit unfinished hf, written, ← hip]
      rfl
    · refine Nat.lt_of_le_of_lt fewer_left ?_
      rw [fuel]
      show s.n.toNat - (s.ipos + 1).toNat + (s.l.toNat - (s.olen + 1).toNat) + 1 < _
      omega
  · refine ⟨_, State.runElement_lit_short hn, advances_raise ?_ (by omega)⟩
    rw [final, State.inputFrom_of_le (by omega), decodeFrom_nil unfinished]
    rfl

/-- BREF in D_TOKEN (R107 to R110). -/
theorem advances_bref {s : State} (hp : s.phase = .dToken) (hf : flagSelectsBref s.flags = true)
    (known : s.outKnown s.olen.toNat) (hl : s.olen.toNat < s.l.toNat) (hb : s.bit.toNat < 8) :
    ∃ t, s.runElement .bref = .next t ∧ Advances s t := by
  have final := State.finalResult_dToken hp hb
  have fuel := State.fuel_betweenTokens (.inr hp)
  have unfinished := State.length_written_ne hl
  by_cases hn : s.ipos.toNat + 2 ≤ s.n.toNat
  · have hip : (s.ipos + 2).toNat = s.ipos.toNat + 2 := toNat_add_two (by have := s.n.isLt; omega)
    rw [State.inputFrom_bref hn] at final
    by_cases hd : (brefDisp s.infoIn).toNat + 1 ≤ s.olen.toNat
    · have source := toNat_copySource hl ((brefDisp s.infoIn).toNat + 1)
      have count := toNat_copyCount (brefTlen s.infoIn) s.l s.olen
      have tlen := (brefTlen_range s.infoIn).1
      refine ⟨_, (State.runElement_bref hn).trans (execBref_copies hn _ hd), ⟨rfl, known, hb, ?_, ?_, ?_⟩, ?_, ?_⟩
      · rw [source]
        show _ < s.olen.toNat
        omega
      · rw [count]
        omega
      · rw [count]
        show s.olen.toNat + _ ≤ s.l.toNat
        omega
      · have loop := decodeFrom_bref_bytewise (hdr := s.hdr) (left := 7 - s.bit.toNat) (pos := s.ipos.toNat)
          (rest := s.inputFrom (s.ipos.toNat + 2)) unfinished hf (hd.trans_eq s.length_written.symm)
        show some (decodeFrom s.l.toNat s.hdr (7 - s.bit.toNat) (flagShift s.flags) (s.ipos + 2).toNat
          (bytewiseCopy s.written (BitVec.ofNat 24 _).toNat (BitVec.ofNat 5 _).toNat)
          (s.inputFrom (s.ipos + 2).toNat)) = _
        rw [source, count, hip, final, loop, State.length_written]
        rfl
      · rw [fuel]
        show s.n.toNat - (s.ipos + 2).toNat + (s.l.toNat - s.olen.toNat) + 1 < _
        omega
    · have before := Nat.lt_of_not_le hd
      refine ⟨_, (State.runElement_bref hn).trans (execBref_invalid hn _ before), advances_raise ?_ (by omega)⟩
      rw [final, decodeFrom_bref_invalid unfinished hf (s.length_written.trans_lt before)]
      rfl
  · refine ⟨_, State.runElement_bref_short hn, advances_raise ?_ (by omega)⟩
    by_cases h1 : s.ipos.toNat < s.n.toNat
    · rw [final, State.inputFrom_of_lt h1, State.inputFrom_of_le (by omega), decodeFrom_bref_short unfinished hf]
      rfl
    · rw [final, State.inputFrom_of_le (by omega), decodeFrom_nil unfinished]
      rfl

/-- D_COPY (R119, R120). -/
theorem Copying.advances {s : State} (c : Copying s) (hlaunch : launchRefusal s.cfg s.curOp s.n = none) :
    ∃ t, s.engineStep = .next t ∧ Advances s t := by
  have final : s.finalResult = some (decodeFrom s.l.toNat s.hdr (7 - s.bit.toNat) (flagShift s.flags) s.ipos.toNat
      (bytewiseCopy s.copied.written s.copied.cptr.toNat s.copied.crem.toNat) (s.inputFrom s.ipos.toNat)) := by
    rw [c.bytewiseCopy_copied]
    simp only [State.finalResult, c.phase]
  have fuel : s.fuel = (s.n.toNat - s.ipos.toNat) + (s.l.toNat - s.olen.toNat) + 1 := by
    simp only [State.fuel, c.phase]
  have fewer : (s.n.toNat - s.ipos.toNat) + (s.l.toNat - s.copied.olen.toNat) + 1 < s.fuel := by
    have := c.olen_lt
    rw [fuel, c.toNat_olen]
    omega
  by_cases h : 2 ≤ s.crem.toNat
  · have c' := c.copied h
    refine ⟨_, c.engineStep_more hlaunch h, ?_, ?_, ?_⟩
    · simp only [DecodeReady, c'.phase]
      exact c'
    · rw [final]
      simp only [State.finalResult, c'.phase]
      rfl
    · simp only [State.fuel, c'.phase]
      exact fewer
  · have last : s.crem.toNat = 1 := by have := c.more; omega
    have none_left : s.copied.crem.toNat = 0 := by rw [c.toNat_crem, last]
    have within : s.copied.olen.toNat ≤ s.copied.l.toNat := c.toNat_olen.trans_le c.olen_lt
    obtain ⟨ready, after, fewer_left⟩ := State.postToken_advances c.known_copied within c.bit
    refine ⟨_, c.engineStep_last hlaunch last, ready, ?_, Nat.lt_of_le_of_lt fewer_left fewer⟩
    rw [after, final, none_left]
    rfl

/-- A running decoding state of a sound launch advances with every engine step. -/
theorem DecodeReady.advances {s : State} (ready : DecodeReady s) (hlaunch : launchRefusal s.cfg s.curOp s.n = none)
    (running : s.phase ≠ .idle) : ∃ t, s.engineStep = .next t ∧ Advances s t := by
  have step := State.engineStep_launched hlaunch
  unfold DecodeReady at ready
  cases hp : s.phase <;> simp only [hp] at ready
  case idle => exact absurd hp running
  case dHeader =>
    obtain ⟨holen, hhdr⟩ := ready
    rw [step, State.phaseStep, hp]
    exact advances_dHeader hp holen hhdr
  case dReadFlag =>
    obtain ⟨known, hl⟩ := ready
    rw [step]
    exact advances_dReadFlag hp known hl
  case dToken =>
    obtain ⟨known, hl, hb⟩ := ready
    rw [step, State.phaseStep, hp]
    cases hf : flagSelectsBref s.flags
    · simp only [tokenElement, hf]
      exact advances_lit hp hf (inScope_of_launch hlaunch) known hl hb
    · simp only [tokenElement, hf]
      exact advances_bref hp hf known hl hb
  case dCopy => exact ready.advances hlaunch

/-- A decoding state whose fuel is spent is idle. -/
theorem DecodeReady.idle_of_fuel {s : State} (ready : DecodeReady s) (h : s.fuel = 0) : s.phase = .idle := by
  unfold DecodeReady at ready
  unfold State.fuel at h
  cases hp : s.phase <;> simp [hp] at ready h ⊢

/-- Within its fuel a decoding state of a sound launch ends with the result it is bound for (R121). -/
theorem DecodeReady.engineRun {k : Nat} {s : State} (ready : DecodeReady s)
    (hlaunch : launchRefusal s.cfg s.curOp s.n = none) (hk : s.fuel ≤ k) :
    ∃ u, Machine.engineRun k s = .next u ∧ u.phase = .idle ∧ u.result = s.finalResult := by
  induction k generalizing s with
  | zero =>
    have idle := ready.idle_of_fuel (Nat.le_zero.mp hk)
    exact ⟨s, rfl, idle, by simp only [State.finalResult, idle]⟩
  | succ k ih =>
    by_cases idle : s.phase = .idle
    · rw [engineRun_succ_of_step (State.engineStep_idle idle)]
      exact ih ready hlaunch (by simp [State.fuel, idle])
    · obtain ⟨t, ht, adv⟩ := ready.advances hlaunch idle
      have frame := (engineNeverWritesItsInput s t ht).1
      rw [engineRun_succ_of_step ht, ← adv.result]
      refine ih adv.ready ?_ (by have := adv.fuel; omega)
      rwa [frame.cfg, frame.curOp, frame.n]

/-- Settles O28: the command leaves a decoding state bound for the result of R101, with fuel N + L + 2. -/
theorem decodeRunsToTheDefinedResult : Obligations.DecodeRunsToTheDefinedResult := by
  intro s hb hscope hlen
  have sound : launchRefusal s.cfg .decode s.inLen = none := (launchRefusal_none_iff _ _ _).mpr ⟨hscope, .inr hlen⟩
  have ready : DecodeReady (State.startOperation .decode { s with op := .decode }) := ⟨rfl, rfl⟩
  obtain ⟨u, hu, idle, result⟩ := ready.engineRun sound le_rfl
  exact ⟨_, u, State.command_start hb sound, hu, idle, result⟩

end Sys2Proof.Machine
end

section
/-!
ENCODE on byte lists (R131 to R134): the groups' size, and the loop of R101 on them; then the statements about encoded streams.
-/

namespace Sys2Proof.Machine

/-! The groups. -/

/-- With `left` literals of a group to come, every 8 bytes after those make one more flag byte (R131, R132). -/
theorem length_literalGroups (left : Nat) (x : List Byte) :
    (literalGroups left x).length = x.length + (x.length - left + 7) / 8 := by
  induction x generalizing left with
  | nil => simp [literalGroups]
  | cons b rest ih => cases left <;> simp only [literalGroups, List.length_cons, ih] <;> omega

/-- The loop reads a literal group by group and stops at the declared length, whatever literals follow (R101, R116, R131). -/
theorem decodeFrom_literalGroups {l left pos : Nat} {hdr : Word} {out x : List Byte} (h : out.length + x.length = l)
    (more : List Byte) :
    decodeFrom l hdr left 0x00#8 pos out (literalGroups left (x ++ more)) =
      .ok (out ++ x) (pos + (literalGroups left x).length) hdr := by
  induction x generalizing left pos out with
  | nil =>
    rw [decodeFrom_complete (by simpa using h), List.append_nil]
    rfl
  | cons b x ih =>
    have unfinished : out.length ≠ l := by rw [List.length_cons] at h; omega
    have grown : (out ++ [b]).length + x.length = l := by
      rw [List.length_append, List.length_singleton, Nat.add_right_comm]
      exact h
    have literal (left pos : Nat) :
        decodeFrom l hdr (left + 1) 0x00#8 pos out (b :: literalGroups left (x ++ more)) =
          .ok (out ++ b :: x) (pos + 1 + (literalGroups left x).length) hdr := by
      have allLiterals : flagShift 0x00#8 = 0x00#8 := rfl
      rw [decodeFrom_lit unfinished rfl, allLiterals, ih grown, List.append_assoc]
      rfl
    cases left with
    | zero =>
      refine (decodeFrom_flag unfinished).trans ((literal 7 (pos + 1)).trans ?_)
      simp only [literalGroups, List.length_cons, Nat.add_assoc, Nat.add_comm, Nat.add_left_comm]
    | succ left =>
      refine (literal left pos).trans ?_
      simp only [literalGroups, List.length_cons, Nat.add_assoc, Nat.add_comm]

/-- DECODE of a length's header is the loop on what follows, up to that length modulo 2^24 (R101, R134). -/
theorem decodeBytes_lengthHeader (n : Word) (rest : List Byte) :
    decodeBytes (le32 (lengthHeader n) ++ rest) = decodeFrom (n.toNat % 2 ^ 24) (lengthHeader n) 0 0x00#8 4 [] rest := by
  have word := fromLE32_le32 (lengthHeader n)
  have tag : headerTag (lengthHeader n) = 0x10#8 := headerTag_headerWord _ _
  have len : (headerLen (lengthHeader n)).toNat = n.toNat % 2 ^ 24 := by
    rw [lengthHeader, headerLen_headerWord, BitVec.toNat_setWidth]
  refine (decodeBytes_header (word.symm ▸ tag) rest).trans ?_
  rw [word, len]

/-! ENCODE's two ends. -/

/-- ENCODE of an accepted length is its header and the groups (R131). -/
theorem encodeBytes_accepted {m : LenOverflowMode} {x : List Byte}
    (h : (BitVec.ofNat 32 x.length).toNat < 2 ^ 24 ∨ m = .truncate) :
    encodeBytes m x =
      .ok (le32 (lengthHeader (BitVec.ofNat 32 x.length)) ++ literalGroups 0 x) x.length
        (lengthHeader (BitVec.ofNat 32 x.length)) := by
  rw [encodeBytes, serializeWord_accepted h]

/-- ENCODE of a length that REJECT refuses is LengthOverflow (R131, R134). -/
theorem encodeBytes_rejected {x : List Byte} (h : 2 ^ 24 ≤ (BitVec.ofNat 32 x.length).toNat) :
    encodeBytes .reject x = .err .lengthOverflow 0#8 0 0#32 := by
  rw [encodeBytes, serializeWord_rejected h]

/-- A successful ENCODE gives four header bytes and the groups, and has read the whole input (R131). -/
theorem encodeBytes_ok {m : LenOverflowMode} {x y : List Byte} {pos : Nat} {word : Word}
    (h : encodeBytes m x = .ok y pos word) : y = le32 word ++ literalGroups 0 x ∧ pos = x.length := by
  unfold encodeBytes at h
  split at h
  · cases h
  · cases h
    exact ⟨rfl, rfl⟩

theorem length_le32_append_literalGroups (word : Word) (x : List Byte) :
    (le32 word ++ literalGroups 0 x).length = x.length + (x.length + 7) / 8 + 4 := by
  rw [List.length_append, length_literalGroups, Nat.add_comm]
  rfl

/-- DECODE of the header of x's length and the groups of x gives the first bytes of x, as many as the length modulo 2^24, and
ends after their groups (R133, R134). -/
theorem decodeBytes_encoded {x : List Byte} (h : x.length < 2 ^ 32) :
    decodeBytes (le32 (lengthHeader (BitVec.ofNat 32 x.length)) ++ literalGroups 0 x) =
      .ok (x.take (x.length % 2 ^ 24)) (4 + (literalGroups 0 (x.take (x.length % 2 ^ 24))).length)
        (lengthHeader (BitVec.ofNat 32 x.length)) := by
  have taken : (x.take (x.length % 2 ^ 24)).length = x.length % 2 ^ 24 :=
    List.length_take_of_le (Nat.mod_le _ _)
  have loop := decodeFrom_literalGroups (left := 0) (pos := 4) (hdr := lengthHeader (BitVec.ofNat 32 x.length)) (out := [])
    ((Nat.zero_add _).trans taken) (x.drop (x.length % 2 ^ 24))
  rw [List.take_append_drop] at loop
  rw [decodeBytes_lengthHeader, BitVec.toNat_ofNat, Nat.mod_eq_of_lt h]
  exact loop

/-- Settles O54: the header's four bytes, and the size of the groups. -/
theorem encodedSizeIsExact : Obligations.EncodedSizeIsExact := by
  intro m x y pos word h
  obtain ⟨rfl, rfl⟩ := encodeBytes_ok h
  have size := length_le32_append_literalGroups word x
  exact ⟨size, rfl, by omega⟩

/-- Settles O53: below 2^24 the first bytes of x are all of x. -/
theorem decodeOfEncodeGivesInput : Obligations.DecodeOfEncodeGivesInput := by
  intro m x h
  have len : (BitVec.ofNat 32 x.length).toNat = x.length := Nat.mod_eq_of_lt (by omega)
  refine ⟨_, _, encodeBytes_accepted (.inl (len.trans_lt h)), ?_⟩
  rw [decodeBytes_encoded (by omega), Nat.mod_eq_of_lt h, List.take_length, List.length_append]
  rfl

/-- Settles O55: from 2^24 on the first bytes are fewer than those of x, so groups are left over. -/
theorem truncatedLengthDecodesToFirstBytes : Obligations.TruncatedLengthDecodesToFirstBytes := by
  intro x h hx
  have len : (BitVec.ofNat 32 x.length).toNat = x.length := Nat.mod_eq_of_lt hx
  refine ⟨encodeBytes_rejected (h.trans_eq len.symm), _, _, _, encodeBytes_accepted (.inr rfl), ?_, rfl,
    length_le32_append_literalGroups _ x, decodeBytes_encoded hx, ?_⟩
  · rw [toNat_lengthHeader, len]
  · have fewer : x.length % 2 ^ 24 < x.length := (Nat.mod_lt _ (by decide)).trans_le h
    rw [length_le32_append_literalGroups, length_literalGroups, List.length_take_of_le (Nat.mod_le _ _)]
    omega

end Sys2Proof.Machine
end

section
/-!
The encoder's micro-steps (R131, R135, R136): one equation per way each can go on or end; the bytes a running encoder has still to
emit, one a step, with room for all of them; then the statements about the steps and about a whole ENCODE.
-/

namespace Sys2Proof.Machine

/-! The micro-steps. -/

/-- The state after E_HEADER has written the header (R136). -/
def State.headerWritten (s : State) : State :=
  { s.writeHeader (lengthHeader s.n) with hdr := lengthHeader s.n, phase := .eFlag }

/-- E_HEADER of a length that is accepted (R136). -/
theorem State.eHeaderStep_accepted {s : State} (h : s.n.toNat < 2 ^ 24 ∨ s.cfg.lenOverflow = .truncate) :
    s.eHeaderStep = s.headerWritten := by
  rw [State.eHeaderStep, serializeWord_accepted h]
  rfl

/-- E_HEADER of a length that is refused (R136, R151). -/
theorem State.eHeaderStep_rejected {s : State} (h : 2 ^ 24 ≤ s.n.toNat) (hm : s.cfg.lenOverflow = .reject) :
    s.eHeaderStep = State.raise .lengthOverflow { s with estart := 0#32 } := by
  rw [State.eHeaderStep, hm, serializeWord_rejected h]

/-- The state after E_FLAG has written a group's flag byte (R135, R136). -/
def State.groupBegun (s : State) : State :=
  { s.emit 0x00#8 with gcnt := BitVec.ofNat 4 (groupCount s.n s.ipos), phase := .eLit }

/-- E_FLAG at the end of the input (R136). -/
theorem State.eFlagStep_ends {s : State} (h : s.ipos = s.n) :
    s.eFlagStep = .next (State.finishOk s.olen s.n s.hdr s) := if_pos h

/-- E_FLAG with input left (R136). -/
theorem State.eFlagStep_begins {s : State} (h : s.ipos ≠ s.n) (hcap : s.olen.toNat < s.cfg.outCap) :
    s.eFlagStep = .next s.groupBegun := (if_neg h).trans (State.emitThen_next hcap)

/-- The state after E_LIT: an input byte appended, IPOS and GCNT moved on, E_FLAG next after the group's last literal (R136). -/
def State.literalCopied (s : State) : State :=
  { s.emit (s.inByte s.ipos.toNat) with
    ipos := s.ipos + 1, gcnt := s.gcnt - 1, phase := if s.gcnt = 1#4 then .eFlag else s.phase }

/-- E_LIT (R136). -/
theorem State.eLitStep_copies {s : State} (hcap : s.olen.toNat < s.cfg.outCap) :
    s.eLitStep = .next s.literalCopied := by
  have last : s.gcnt - 1 = 0#4 ↔ s.gcnt = 1#4 := sub_eq_zero
  refine (State.emitThen_next hcap).trans (congrArg _ ?_)
  unfold State.afterLiteral State.literalCopied
  dsimp only [State.emit_gcnt]
  rw [if_congr last rfl rfl]
  split <;> rfl

/-! The engine's step in the phases of ENCODE of a sound launch. -/

theorem State.engineStep_eHeader {s : State} (hp : s.phase = .eHeader) (h : launchRefusal s.cfg s.curOp s.n = none) :
    s.engineStep = .next s.eHeaderStep := by
  rw [State.engineStep_launched h, State.phaseStep, hp]

theorem State.engineStep_eHeader_accepted {s : State} (hp : s.phase = .eHeader)
    (h : launchRefusal s.cfg s.curOp s.n = none) (ha : s.n.toNat < 2 ^ 24 ∨ s.cfg.lenOverflow = .truncate) :
    s.engineStep = .next s.headerWritten :=
  (State.engineStep_eHeader hp h).trans (congrArg _ (State.eHeaderStep_accepted ha))

theorem State.engineStep_eHeader_rejected {s : State} (hp : s.phase = .eHeader)
    (h : launchRefusal s.cfg s.curOp s.n = none) (hn : 2 ^ 24 ≤ s.n.toNat) (hm : s.cfg.lenOverflow = .reject) :
    ∃ t, s.engineStep = .next t ∧ FailedWith .lengthOverflow 0#32 s.hdr t :=
  ⟨_, (State.engineStep_eHeader hp h).trans (congrArg _ (State.eHeaderStep_rejected hn hm)), failedWith_raise rfl rfl⟩

theorem State.engineStep_eFlag {s : State} (hp : s.phase = .eFlag) (h : launchRefusal s.cfg s.curOp s.n = none) :
    s.engineStep = s.eFlagStep := by
  rw [State.engineStep_launched h, State.phaseStep, hp]

theorem State.engineStep_eLit {s : State} (hp : s.phase = .eLit) (h : launchRefusal s.cfg s.curOp s.n = none) :
    s.engineStep = s.eLitStep := by
  rw [State.engineStep_launched h, State.phaseStep, hp]

/-! The header written. -/

theorem State.outByte_writeHeader {word : Word} {k : Nat} {b : Byte} (h : (le32 word)[k]? = some b) (s : State) :
    (s.writeHeader word).outByte k = b := by
  obtain ⟨hk, rfl⟩ := List.getElem?_eq_some_iff.mp h
  refine State.outByte_of_get? ?_
  simpa using Memory.get?_setAll_self s.outMem 0 k (le32 word) hk

theorem State.written_writeHeader (word : Word) (s : State) : (s.writeHeader word).written = le32 word := by
  refine List.ext_getElem rfl fun k _ hk => ?_
  simpa [State.written] using State.outByte_writeHeader (List.getElem?_eq_getElem hk) s

/-! The bytes still to emit. -/

/-- The literals to come in the group under way; 0 where a flag byte comes next (R136). -/
def State.groupLeft (s : State) : Nat := if s.phase = .eLit then s.gcnt.toNat else 0

theorem State.groupLeft_eFlag {s : State} (h : s.phase = .eFlag) : s.groupLeft = 0 := if_neg (by simp [h])

theorem State.groupLeft_eLit {s : State} (h : s.phase = .eLit) : s.groupLeft = s.gcnt.toNat := if_pos h

/-- A literal leaves one less to come in its group, and none once the group is over (R136). -/

theorem State.groupLeft_literalCopied {s : State} (h : s.phase = .eLit) (hg : 1 ≤ s.gcnt.toNat) :
    s.literalCopied.groupLeft = s.gcnt.toNat - 1 := by
  by_cases last : s.gcnt = 1#4
  · rw [State.groupLeft_eFlag (if_pos last), last]
    rfl
  · rw [State.groupLeft_eLit ((if_neg last).trans h)]
    show (s.gcnt - 1).toNat = _
    bv_omega

/-- The bytes a running encoder has still to emit (R131). -/
def State.toEmit (s : State) : List Byte := literalGroups s.groupLeft (s.inputFrom s.ipos.toNat)

theorem State.length_inBytes (s : State) (n : Nat) : (s.inBytes n).length = n := by
  rw [State.inBytes, List.length_map, List.length_range]

theorem State.length_inputFrom (s : State) (pos : Nat) : (s.inputFrom pos).length = s.n.toNat - pos := by
  rw [State.inputFrom, List.length_drop, State.length_inBytes]

theorem State.length_toEmit (s : State) :
    s.toEmit.length = s.n.toNat - s.ipos.toNat + (s.n.toNat - s.ipos.toNat - s.groupLeft + 7) / 8 := by
  rw [State.toEmit, length_literalGroups, State.length_inputFrom]

/-- Bytes are left to emit exactly while input is left: no flag byte stands without a literal (R135). -/
theorem State.toEmit_ne_nil_iff {s : State} : s.toEmit ≠ [] ↔ s.ipos.toNat < s.n.toNat := by
  rw [← List.length_pos_iff, State.length_toEmit]
  omega

/-- A group takes no more literals than there are (R131). -/
theorem literalGroups_min (left : Nat) (x : List Byte) : literalGroups (min left x.length) x = literalGroups left x := by
  induction x generalizing left with
  | nil => rfl
  | cons b rest ih =>
    cases left with
    | zero => rw [Nat.zero_min]
    | succ left =>
      rw [List.length_cons, Nat.succ_min_succ]
      exact congrArg (b :: ·) (ih left)

/-- Where a flag byte comes next, E_FLAG writes the next byte to emit (R135, R136). -/
theorem State.toEmit_eFlag {s : State} (hp : s.phase = .eFlag) (h : s.ipos.toNat < s.n.toNat) :
    s.toEmit = 0x00#8 :: s.groupBegun.toEmit := by
  have group : s.groupBegun.groupLeft = min 8 (s.inputFrom s.ipos.toNat).length := by
    rw [State.length_inputFrom]
    exact toNat_groupCount s.n s.ipos
  have left : s.groupBegun.toEmit = literalGroups 8 (s.inputFrom s.ipos.toNat) := by
    rw [State.toEmit, group]
    exact literalGroups_min 8 _
  rw [left, State.toEmit, State.groupLeft_eFlag hp, State.inputFrom_of_lt h]
  rfl

/-- Within a group E_LIT writes the next byte to emit (R136). -/
theorem State.toEmit_eLit {s : State} (hp : s.phase = .eLit) (h : s.ipos.toNat < s.n.toNat) (hg : 1 ≤ s.gcnt.toNat) :
    s.toEmit = s.inByte s.ipos.toNat :: s.literalCopied.toEmit := by
  obtain ⟨left, hleft⟩ : ∃ left, s.gcnt.toNat = left + 1 := ⟨s.gcnt.toNat - 1, by omega⟩
  have hip : (s.ipos + 1).toNat = s.ipos.toNat + 1 := toNat_add_one (by have := s.n.isLt; omega)
  have rest : s.literalCopied.toEmit = literalGroups left (s.inputFrom (s.ipos.toNat + 1)) := by
    rw [State.toEmit, State.groupLeft_literalCopied hp hg, hleft, ← hip]
    rfl
  rw [rest, State.toEmit, State.groupLeft_eLit hp, State.inputFrom_of_lt h, hleft]
  rfl

/-! The emitting states. -/

/-- What a running encoder past its header rests on (R54, R136). Unlike `Inv` it says nothing of the windows' form, so it holds of
every launch; OUT has room for all bytes still to emit. -/
structure Emitting (s : State) : Prop where
  running : s.status = .running
  launch : launchRefusal s.cfg s.curOp s.n = none
  known : s.outKnown s.olen.toNat
  room : s.olen.toNat + s.toEmit.length ≤ s.cfg.outCap
  within : s.ipos.toNat + s.groupLeft ≤ s.n.toNat
  phase : s.phase = .eFlag ∨ s.phase = .eLit ∧ 1 ≤ s.gcnt.toNat

/-- A step of the encoder that emits one byte, the next one. -/
structure Emits (s : State) (b : Byte) (t : State) : Prop where
  emitting : Emitting t
  written : t.written = s.written ++ [b]
  n : t.n = s.n
  hdr : t.hdr = s.hdr

section
variable {s : State} (e : Emitting s)
include e

/-- While bytes are left to emit, OUT has room for one. -/
theorem Emitting.olen_lt (h : s.toEmit ≠ []) : s.olen.toNat < s.cfg.outCap := by
  have := e.room
  have := List.length_pos_iff.mpr h
  omega

theorem Emitting.olen_succ_lt (h : s.toEmit ≠ []) : s.olen.toNat + 1 < 2 ^ 32 := by
  have := e.olen_lt h
  have := (outCap_of_launch e.launch).2
  omega

/-- Appending the next byte to emit and moving on to the bytes after it emits it. -/
theorem Emitting.emits {b : Byte} {ipos : Word} {gcnt : BitVec 4} {phase : Phase}
    (next : s.toEmit = b :: State.toEmit { s.emit b with ipos := ipos, gcnt := gcnt, phase := phase })
    (within : ipos.toNat + State.groupLeft { s.emit b with ipos := ipos, gcnt := gcnt, phase := phase } ≤ s.n.toNat)
    (hp : phase = .eFlag ∨ phase = .eLit ∧ 1 ≤ gcnt.toNat) :
    Emits s b { s.emit b with ipos := ipos, gcnt := gcnt, phase := phase } := by
  have hm : s.olen.toNat + 1 < 2 ^ 32 := e.olen_succ_lt (by simp [next])
  refine ⟨⟨e.running, e.launch, outKnown_emit e.known hm, ?_, within, hp⟩, State.written_emit hm b, rfl, rfl⟩
  have room := e.room
  rw [next, List.length_cons] at room
  show (s.olen + 1).toNat + _ ≤ s.cfg.outCap
  rw [toNat_add_one hm]
  omega

/-- E_FLAG with input left emits the flag byte and begins a group (R136). -/
theorem Emitting.emits_groupBegun (hp : s.phase = .eFlag) (h : s.ipos.toNat < s.n.toNat) :
    s.engineStep = .next s.groupBegun ∧ Emits s 0x00#8 s.groupBegun := by
  have group : s.groupBegun.gcnt.toNat = min 8 (s.n.toNat - s.ipos.toNat) := toNat_groupCount s.n s.ipos
  refine ⟨?_, e.emits (State.toEmit_eFlag hp h) ?_ (.inr ⟨rfl, ?_⟩)⟩
  · rw [State.engineStep_eFlag hp e.launch]
    exact State.eFlagStep_begins (fun hn => by simp [hn] at h) (e.olen_lt (State.toEmit_ne_nil_iff.mpr h))
  · show s.ipos.toNat + s.groupBegun.gcnt.toNat ≤ s.n.toNat
    omega
  · show 1 ≤ s.groupBegun.gcnt.toNat
    omega

/-- E_LIT emits an input byte (R136). -/
theorem Emitting.emits_literalCopied (hp : s.phase = .eLit) (hg : 1 ≤ s.gcnt.toNat) :
    s.engineStep = .next s.literalCopied ∧ Emits s (s.inByte s.ipos.toNat) s.literalCopied := by
  have within := e.within
  rw [State.groupLeft_eLit hp] at within
  have h : s.ipos.toNat < s.n.toNat := by omega
  have hip : (s.ipos + 1).toNat = s.ipos.toNat + 1 := toNat_add_one (by have := s.n.isLt; omega)
  refine ⟨?_, e.emits (State.toEmit_eLit hp h hg) ?_ ?_⟩
  · rw [State.engineStep_eLit hp e.launch]
    exact State.eLitStep_copies (e.olen_lt (State.toEmit_ne_nil_iff.mpr h))
  · show (s.ipos + 1).toNat + s.literalCopied.groupLeft ≤ s.n.toNat
    rw [State.groupLeft_literalCopied hp hg]
    omega
  · by_cases last : s.gcnt = 1#4
    · exact .inl (if_pos last)
    · exact .inr ⟨(if_neg last).trans hp, by bv_omega⟩

/-- The engine's step emits the next byte, whichever of the two phases it is in. -/
theorem Emitting.step {b : Byte} {rest : List Byte} (next : s.toEmit = b :: rest) :
    ∃ t, s.engineStep = .next t ∧ Emits s b t ∧ t.toEmit = rest := by
  obtain hp | ⟨hp, hg⟩ := e.phase
  · have h : s.ipos.toNat < s.n.toNat := State.toEmit_ne_nil_iff.mp (by simp [next])
    obtain ⟨step, emits⟩ := e.emits_groupBegun hp h
    obtain ⟨rfl, rfl⟩ := List.cons.inj ((State.toEmit_eFlag hp h).symm.trans next)
    exact ⟨_, step, emits, rfl⟩
  · have h : s.ipos.toNat < s.n.toNat := State.toEmit_ne_nil_iff.mp (by simp [next])
    obtain ⟨step, emits⟩ := e.emits_literalCopied hp hg
    obtain ⟨rfl, rfl⟩ := List.cons.inj ((State.toEmit_eLit hp h hg).symm.trans next)
    exact ⟨_, step, emits, rfl⟩

/-- With nothing left to emit, all input is emitted and E_FLAG comes next. -/
theorem Emitting.complete (h : s.toEmit = []) : s.phase = .eFlag ∧ s.ipos = s.n := by
  have none_left : ¬ s.ipos.toNat < s.n.toNat := fun hlt => State.toEmit_ne_nil_iff.mpr hlt h
  have within := e.within
  obtain hp | ⟨hp, hg⟩ := e.phase
  · exact ⟨hp, BitVec.eq_of_toNat_eq (by omega)⟩
  · rw [State.groupLeft_eLit hp] at within
    omega

end

/-- As many steps as there are bytes left to emit append them to the output (R136). -/
theorem Emitting.engineRun {s : State} (e : Emitting s) :
    ∃ u, Machine.engineRun s.toEmit.length s = .next u ∧ Emitting u ∧ u.toEmit = [] ∧
      u.written = s.written ++ s.toEmit ∧ u.n = s.n ∧ u.hdr = s.hdr := by
  generalize next : s.toEmit = bytes
  induction bytes generalizing s with
  | nil => exact ⟨s, rfl, e, next, (List.append_nil _).symm, rfl, rfl⟩
  | cons b rest ih =>
    obtain ⟨t, ht, emits, hrest⟩ := e.step next
    obtain ⟨u, hu, e', none_left, written, n, hdr⟩ := ih emits.emitting hrest
    refine ⟨u, (engineRun_succ_of_step ht).trans hu, e', none_left, ?_, n.trans emits.n, hdr.trans emits.hdr⟩
    rw [written, emits.written, List.append_assoc, List.singleton_append]

/-- Success reports the known output as it was written (R45, R68). -/
theorem State.outBytes_finishOk {s : State} (known : s.outKnown s.olen.toNat) (inPos hdr : Word) :
    (State.finishOk s.olen inPos hdr s).outBytes = s.written :=
  List.map_congr_left fun k hk => State.outByte_finishOk (List.mem_range.mp hk) (known k (List.mem_range.mp hk))

/-- With nothing left to emit, the next step ends ENCODE with the output written (R136). -/
theorem Emitting.ends {s : State} (e : Emitting s) (h : s.toEmit = []) :
    ∃ v, s.engineStep = .next v ∧ v.phase = .idle ∧ v.result = some (.ok s.written s.n.toNat s.hdr) := by
  obtain ⟨hp, hn⟩ := e.complete h
  refine ⟨_, (State.engineStep_eFlag hp e.launch).trans (State.eFlagStep_ends hn), rfl, ?_⟩
  exact congrArg (fun out => some (OpResult.ok out s.n.toNat s.hdr)) (State.outBytes_finishOk e.known s.n s.hdr)

/-- A sound launch of an accepted length has room for the whole stream in OUT (R54, R132). -/
theorem encodedSize_le_outCap {c : Config} {n : Word} (h : launchRefusal c .encode n = none)
    (ha : n.toNat < 2 ^ 24 ∨ c.lenOverflow = .truncate) : n.toNat + (n.toNat + 7) / 8 + 4 ≤ c.outCap := by
  obtain ⟨hscope, hlen⟩ := (launchRefusal_none_iff _ _ _).mp h
  obtain ⟨_, _, room, _⟩ := (inScope_iff c).mp hscope
  have len : n.toNat ≤ c.inCap := hlen.resolve_left nofun
  have accepted : n.toNat ≤ eMax c := by
    unfold eMax
    cases hm : c.lenOverflow with
    | reject =>
      have below : n.toNat < 2 ^ 24 := ha.resolve_right (by simp [hm])
      exact Nat.le_min.mpr ⟨len, by omega⟩
    | truncate => exact len
  unfold ceilDiv at room
  omega

/-- E_HEADER of an accepted length leaves an emitting state, with the header written and the groups to emit (R131). -/
theorem State.headerWritten_emitting {s : State} (hst : s.status = .running) (hop : s.curOp = .encode)
    (hlaunch : launchRefusal s.cfg s.curOp s.n = none) (hi : s.ipos = 0#32)
    (ha : s.n.toNat < 2 ^ 24 ∨ s.cfg.lenOverflow = .truncate) :
    Emitting s.headerWritten ∧ s.headerWritten.toEmit = literalGroups 0 (s.inBytes s.n.toNat) := by
  have groups : s.headerWritten.toEmit = literalGroups 0 (s.inBytes s.n.toNat) := by
    unfold State.toEmit
    rw [State.groupLeft_eFlag rfl]
    show literalGroups 0 (s.inputFrom s.ipos.toNat) = _
    rw [hi]
    rfl
  have size := encodedSize_le_outCap (hop ▸ hlaunch) ha
  refine ⟨⟨hst, hlaunch, outKnown_writeHeader, ?_, ?_, .inl rfl⟩, groups⟩
  · rw [groups, length_literalGroups, State.length_inBytes]
    show 4 + _ ≤ s.cfg.outCap
    omega
  · rw [State.groupLeft_eFlag rfl]
    show s.ipos.toNat + 0 ≤ s.n.toNat
    simp [hi]

/-- ENCODE of the first bytes of the IN window, if their number is accepted (R131). -/
theorem State.encodeBytes_inBytes {m : LenOverflowMode} {n : Word} (ha : n.toNat < 2 ^ 24 ∨ m = .truncate) (s : State) :
    encodeBytes m (s.inBytes n.toNat) =
      .ok (le32 (lengthHeader n) ++ literalGroups 0 (s.inBytes n.toNat)) n.toNat (lengthHeader n) := by
  have length : BitVec.ofNat 32 (s.inBytes n.toNat).length = n := by
    rw [State.length_inBytes, BitVec.ofNat_toNat, BitVec.setWidth_eq]
  rw [encodeBytes_accepted (by rwa [length]), length, State.length_inBytes]

/-- Settles O29: the header's step, then one step for each byte of the groups, and the step that ends the operation. -/
theorem encodeRunsToTheDefinedResult : Obligations.EncodeRunsToTheDefinedResult := by
  intro s hb hscope hlen
  have sound : launchRefusal s.cfg .encode s.inLen = none := (launchRefusal_none_iff _ _ _).mpr ⟨hscope, .inr hlen⟩
  let started := State.startOperation .encode { s with op := .encode }
  refine ⟨started, State.command_start hb sound, fun ha => ?_,
    State.engineStep_eHeader_rejected (s := started) rfl sound⟩
  obtain ⟨e, groups⟩ := State.headerWritten_emitting (s := started) rfl rfl sound rfl ha
  obtain ⟨u, hu, e', none_left, written, n, hdr⟩ := e.engineRun
  obtain ⟨v, hv, hp, result⟩ := e'.ends none_left
  refine ⟨u, v, ?_, (State.busy_iff u).mpr e'.running, hv, hp, result.trans ?_⟩
  · rw [groups, length_literalGroups, State.length_inBytes] at hu
    have steps : 1 + (s.inLen.toNat + 7) / 8 + s.inLen.toNat = s.inLen.toNat + (s.inLen.toNat - 0 + 7) / 8 + 1 := by omega
    rw [steps, engineRun_succ_of_step (State.engineStep_eHeader_accepted rfl sound ha)]
    exact hu
  · have header : started.headerWritten.written = _ := State.written_writeHeader (lengthHeader s.inLen) _
    rw [written, n, hdr, groups, header, State.encodeBytes_inBytes ha]
    rfl

/-- A length whose header word serialize gives is accepted (R91). -/
theorem accepted_of_serializeWord_ok {m : LenOverflowMode} {n word : Word} (h : serializeWord m n = .ok word) :
    n.toNat < 2 ^ 24 ∨ m = .truncate := by
  cases m with
  | truncate => exact .inr rfl
  | reject =>
    refine .inl (Nat.lt_of_not_le fun overflow => ?_)
    rw [serializeWord_rejected overflow] at h
    cases h

/-- Past the header of a sound launch OUT has room for the whole stream (R54, R132). -/
theorem Encoding.size_le_outCap {s : State} (enc : Encoding s) (hlaunch : launchRefusal s.cfg s.curOp s.n = none) :
    s.n.toNat + (s.n.toNat + 7) / 8 + 4 ≤ s.cfg.outCap :=
  encodedSize_le_outCap (enc.curOp ▸ hlaunch) (accepted_of_serializeWord_ok enc.header)

/-- An invariant state in E_FLAG is an emitting state: OLEN counts the header and the groups before IPOS (R132). -/
theorem Emitting.of_inv_eFlag {s : State} (h : Inv s) (hp : s.phase = .eFlag) : Emitting s := by
  have running := Launched.of_inv h (by simp [hp])
  have hP := h.phaseInv
  simp only [PhaseInv, hp] at hP
  obtain ⟨enc, holen, hgroup⟩ := hP
  have within := enc.iposHigh
  refine ⟨running.st, running.launch, enc.known, ?_, (State.groupLeft_eFlag hp).symm ▸ within, .inl hp⟩
  have size := enc.size_le_outCap running.launch
  unfold ceilDiv at holen
  rw [State.length_toEmit, State.groupLeft_eFlag hp]
  obtain whole | hend := hgroup
  · obtain ⟨groups, hgroups⟩ := Nat.dvd_of_mod_eq_zero whole
    omega
  · have hend := congrArg BitVec.toNat hend
    omega

/-- An invariant state in E_LIT is an emitting state: OLEN counts the flag byte of the group under way too (R132). -/
theorem Emitting.of_inv_eLit {s : State} (h : Inv s) (hp : s.phase = .eLit) : Emitting s := by
  have running := Launched.of_inv h (by simp [hp])
  have hP := h.phaseInv
  simp only [PhaseInv, hp] at hP
  obtain ⟨enc, holen, hleft, hmore⟩ := hP
  have within := enc.iposHigh
  refine ⟨running.st, running.launch, enc.known, ?_, ?_, .inr ⟨hp, hmore⟩⟩
  · have size := enc.size_le_outCap running.launch
    rw [State.length_toEmit, State.groupLeft_eLit hp]
    omega
  · rw [State.groupLeft_eLit hp]
    omega

/-- Settles O47: the header's two ends; the end of the input; and the two steps that emit a byte. -/
theorem encoderStepsEmitGroups : Obligations.EncoderStepsEmitGroups := by
  intro s h
  have launch (hp : s.phase ≠ .idle) : launchRefusal s.cfg s.curOp s.n = none := (Launched.of_inv h hp).launch
  refine ⟨fun hp ha => ?_, fun hp => State.engineStep_eHeader_rejected hp (launch (by simp [hp])), fun hp hi => ?_,
    fun hp hi => ?_, fun hp => ?_⟩
  · exact ⟨_, State.engineStep_eHeader_accepted hp (launch (by simp [hp])) ha, toNat_lengthHeader s.n, rfl, rfl,
      fun k b hb => State.outByte_writeHeader hb s⟩
  · exact ⟨_, (State.engineStep_eFlag hp (launch (by simp [hp]))).trans (State.eFlagStep_ends hi),
      succeededWith_finishOk _ _ _ s⟩
  · have e := Emitting.of_inv_eFlag h hp
    have hlt : s.ipos.toNat < s.n.toNat := by have := e.within; bv_omega
    exact ⟨_, (e.emits_groupBegun hp hlt).1, State.outByte_emit_self _ s, rfl, rfl, toNat_groupCount s.n s.ipos, rfl⟩
  · have e := Emitting.of_inv_eLit h hp
    obtain hf | ⟨_, hg⟩ := e.phase
    · simp [hp] at hf
    exact ⟨_, (e.emits_literalCopied hp hg).1, State.outByte_emit_self _ s, rfl, rfl, rfl, fun hl => if_pos hl,
      fun hl => (if_neg hl).trans hp⟩

end Sys2Proof.Machine
end

section
/-!
Errors, steps and several instances (60_exceptions.md R146, R163, R164): what the host collects after an error, what a step takes,
and that a step of a platform rewrites only the state at its own number.
-/

namespace Sys2Proof.Machine

/-! Several instances. -/

/-- A step at number k puts the next state of the machine there in its place, and nothing else changes. A number with no machine
asks for no next state, and `set` puts none (R163). -/
theorem Platform.stepAt_eq_next_iff {p q : Platform} {k : Nat} :
    p.stepAt k = .next q ↔
      ∃ t, (∀ s, p.instances[k]? = some s → step s = .next t) ∧ q = ⟨p.instances.set k t⟩ := by
  unfold Platform.stepAt
  cases hk : p.instances[k]? with
  | none =>
    have unchanged (t : State) : p.instances.set k t = p.instances :=
      List.set_eq_of_length_le (List.getElem?_eq_none_iff.mp hk)
    constructor
    · rintro ⟨⟩
      exact ⟨State.reset, (fun _ hs => nomatch hs), by rw [unchanged]⟩
    · rintro ⟨t, -, rfl⟩
      rw [unchanged]
  | some s => cases hs : step s <;> simp [hs, eq_comm]

/-- A step at one number leaves the machine at every other as it is (R163). -/
theorem Platform.getElem?_stepAt_other {p q : Platform} {i j : Nat} (hij : i ≠ j) (h : p.stepAt i = .next q) :
    q.instances[j]? = p.instances[j]? := by
  obtain ⟨t, -, rfl⟩ := Platform.stepAt_eq_next_iff.mp h
  exact List.getElem?_set_ne hij

/-- Settles O58: a step reads and writes at its own number only, so the two writes commute. -/
theorem instancesStepIndependently : Obligations.InstancesStepIndependently := by
  refine fun p q i j hij hq => ⟨Platform.getElem?_stepAt_other hij hq, fun r hr => ?_⟩
  have same := Platform.getElem?_stepAt_other hij hq
  obtain ⟨t, ht, rfl⟩ := Platform.stepAt_eq_next_iff.mp hq
  obtain ⟨u, hu, rfl⟩ := Platform.stepAt_eq_next_iff.mp hr
  have first : p.stepAt j = .next ⟨p.instances.set j u⟩ :=
    Platform.stepAt_eq_next_iff.mpr ⟨u, fun s hs => hu s (same.trans hs), rfl⟩
  refine ⟨_, first, Platform.stepAt_eq_next_iff.mpr ⟨t, fun s hs => ht s ?_, ?_⟩⟩
  · exact (Platform.getElem?_stepAt_other hij.symm first).symm.trans hs
  · exact congrArg Platform.mk (List.set_comm t u hij)

/-! Errors. -/

/-- The tag is reported for UnsupportedFormat and nothing for the other errors (R14, R141). -/
theorem errorInfo_eq (e : ErrorCode) (hdr : Word) :
    errorInfo e hdr = if e = .unsupportedFormat then headerTag hdr else 0#8 := by
  cases e <;> rfl

/-- After an error the host collects its code and its info, at the element start (R14, R146). -/
theorem State.result_raise (e : ErrorCode) (s : State) :
    (State.raise e s).result = some (.err e (errorInfo e s.hdr) s.estart.toNat s.hdr) := rfl

/-- Settles O42: the end of an error, its result, and the idle engine after it. -/
theorem raiseEndsTheOperation : Obligations.RaiseEndsTheOperation := fun s e =>
  ⟨failedWith_raise rfl rfl, errorInfo_eq e s.hdr ▸ State.result_raise e s,
    State.engineStep_idle (State.raise_phase e s)⟩

/-! Steps. -/

/-- Settles O49: the two cases of the agenda; the idle engine's step is the first of them. -/
theorem stepTakesTheNextMove : Obligations.StepTakesTheNextMove :=
  ⟨fun _ => step_engine, fun _ _ _ => step_move,
    fun _ ha hp => (step_engine ha).trans (State.engineStep_idle hp)⟩

end Sys2Proof.Machine
end

section
/-!
The reset event and the engine's progress (70_reset_and_hazards.md R170 to R172, R183): what a reset leaves; and that from every
invariant state the engine takes a step, phase by phase.
-/

namespace Sys2Proof.Machine

/-! The reset event. -/

theorem State.inByte_resetEvent (s : State) (k : Nat) :
    s.resetEvent.inByte k = Config.freeInByte (s.inEpoch + 1) k := rfl

theorem State.outByte_resetEvent (s : State) (k : Nat) :
    s.resetEvent.outByte k = Config.freeOutByte (s.outEpoch + 1) k := rfl

theorem State.result_resetEvent (s : State) : s.resetEvent.result = none := rfl

/-- Settles O21: the reset event's state has the fields of the reset state, and windows of the next epoch. -/
theorem resetEventGivesResetValues : Obligations.ResetEventGivesResetValues :=
  fun s => ⟨s.resetEvent, rfl, rfl, rfl, rfl, rfl, rfl, rfl, rfl, rfl, rfl, rfl, rfl, rfl, s.result_resetEvent,
    s.resetEvent_cfg, s.inByte_resetEvent, s.outByte_resetEvent⟩

/-! The engine's progress. -/

/-- D_HEADER goes on from any header: too few bytes and a wrong tag end the operation, a legal tag begins the groups (R102). -/
theorem State.runElement_header_next (s : State) : ∃ t, s.runElement .header = .next t := by
  by_cases hn : s.n.toNat < 4
  · exact ⟨_, State.runElement_header_short hn⟩
  · by_cases ht : headerTag s.headerWordIn = 0x10#8
    · exact ⟨_, State.runElement_header_legal (Nat.le_of_not_lt hn) ht⟩
    · exact ⟨_, State.runElement_header_wrong_tag (Nat.le_of_not_lt hn) ht⟩

/-- Past its header, DECODE in an invariant state meets what its steps rest on (R34, R36, R38, R109). -/
theorem DecodeReady.of_inv {s : State} (h : Inv s) (hp : s.phase = .dReadFlag ∨ s.phase = .dToken ∨ s.phase = .dCopy) :
    DecodeReady s := by
  have hP := h.phaseInv
  unfold DecodeReady
  obtain hp | hp | hp := hp <;> simp only [PhaseInv, hp] at hP ⊢
  · obtain ⟨d, hl⟩ := hP
    exact ⟨d.known, hl⟩
  · obtain ⟨d, hl, hbit⟩ := hP
    exact ⟨d.known, hl, hbit⟩
  · exact Copying.of_inv h hp

/-- A decoding state of a sound launch takes a step: a token starts and a copy goes on only while OLEN is below L, where OUT has
a byte (R54). -/
theorem DecodeReady.engineStep_next {s : State} (ready : DecodeReady s)
    (hlaunch : launchRefusal s.cfg s.curOp s.n = none) (running : s.phase ≠ .idle) : ∃ t, s.engineStep = .next t := by
  obtain ⟨t, step, _⟩ := ready.advances hlaunch running
  exact ⟨t, step⟩

/-- An emitting state takes a step: a byte still to emit has room in OUT, and with none left the operation ends (R54, R136). -/
theorem Emitting.engineStep_next {s : State} (e : Emitting s) : ∃ t, s.engineStep = .next t := by
  cases left : s.toEmit with
  | nil =>
    obtain ⟨t, step, _⟩ := e.ends left
    exact ⟨t, step⟩
  | cons b rest =>
    obtain ⟨t, step, _⟩ := e.step left
    exact ⟨t, step⟩

/-- Settles O52, phase by phase: a header goes to the first four bytes of OUT, which every instance in scope has, and wherever the
engine appends a byte the invariant leaves room for it (R54). -/
theorem engineNeverStops : Obligations.EngineNeverStops := by
  intro s h
  by_cases idle : s.phase = .idle
  · exact ⟨s, State.engineStep_idle idle⟩
  have launch := (Launched.of_inv h idle).launch
  have step := State.engineStep_launched launch
  cases hp : s.phase with
  | idle => exact absurd hp idle
  | hParse => exact ⟨s.hParseStep, by rw [step, State.phaseStep, hp]⟩
  | hSer => exact ⟨s.hSerStep, by rw [step, State.phaseStep, hp]⟩
  | dHeader =>
    rw [step, State.phaseStep, hp]
    exact s.runElement_header_next
  | dReadFlag => exact (DecodeReady.of_inv h (.inl hp)).engineStep_next launch idle
  | dToken => exact (DecodeReady.of_inv h (.inr (.inl hp))).engineStep_next launch idle
  | dCopy => exact (DecodeReady.of_inv h (.inr (.inr hp))).engineStep_next launch idle
  | eHeader => exact ⟨s.eHeaderStep, State.engineStep_eHeader hp launch⟩
  | eFlag => exact (Emitting.of_inv_eFlag h hp).engineStep_next
  | eLit => exact (Emitting.of_inv_eLit h hp).engineStep_next

end Sys2Proof.Machine
end
